-- ==== Sys2Proof/Word.lean ====
section
/-! DEFINITION. The word types of the block (00_scope.md section 6): bytes and the unsigned 16- and 32-bit values. -/

namespace Sys2Proof

/-- A byte is 8 bits, an unsigned value 0 to 255 (00_scope.md section 6). -/
abbrev Byte := BitVec 8

/-- An unsigned 16-bit value. -/
abbrev U16 := BitVec 16

/-- An unsigned 32-bit value. -/
abbrev U32 := BitVec 32

end Sys2Proof
end

