-- ==== Sys2Proof/Config.lean ====
section
/-! DEFINITION. What an implementation fixes: the parameters of 00_scope.md R3 (the configuration registers of
10_state.md R20), the derived constants of R5, and the free values of the model. -/

namespace Sys2Proof

/-- HEADER_SIZE, the only value the header layout admits (00_scope.md R4). -/
abbrev headerSize : Nat := 8

/-- The parameters of 00_scope.md R3, with the source's defaults. ECHO has none (OPEN, D32). They are held in
`State.cfg` (log 1), so that what is proved of every state is proved of every configuration. -/
structure Params where
  /-- REPORT_ID, byte 0 of every report. -/
  reportId : Byte := 0x22
  /-- REPORT_LEN, the total length in bytes of one report. -/
  reportLen : Nat := 1024
  /-- ECHO, the token that correlates requests and responses; no default in the source. -/
  echo : Byte
  /-- CMD_SYSINFO, the command code SystemInfo. -/
  cmdSysinfo : Byte := 0x02
  /-- CMD_SCREENBUF, the command code ScreenBuffer. -/
  cmdScreenbuf : Byte := 0x25
  /-- READ_TIMEOUT_MS, handed to the transport; no rule of the block reads it (R133). -/
  readTimeoutMs : Nat := 50
  /-- CMD_TIMEOUT_MS, the deadline of a command. -/
  cmdTimeoutMs : Nat := 1500
  /-- IDLE_BREAK_MS, the idle-break duration. -/
  idleBreakMs : Nat := 10
  deriving DecidableEq, Repr

/-- The one constraint on the parameters: REPORT_LEN is at least HEADER_SIZE (00_scope.md R4). -/
abbrev Params.Legal (p : Params) : Prop := headerSize ≤ p.reportLen

/-- The source's defaults. DESIGN CHOICE (log 2): ECHO, which the source leaves open, is 0x5A, the value of the
spec's own test vectors (95_test_vectors.md); unsafe to lean on. -/
def Params.standard : Params := { echo := 0x5A }

/-- BODY_CAP, the number of body bytes one report can carry (00_scope.md R5). -/
def Params.bodyCap (p : Params) : Nat := p.reportLen - headerSize

/-- DATA_CAP, the number of frame-data bytes one ScreenBuffer response can carry after its 4-byte address
(00_scope.md R5). Below a REPORT_LEN of 12 no response carries a chunk at all. -/
def Params.dataCap (p : Params) : Nat := p.bodyCap - 4

/-- The value a byte of the frame buffer holds before anything has written it (20_memory.md R31, U5): any value,
fixed at creation and stable until written. A FREE VALUE (log 4): the number of the buffer (how many had been
created, this one included) and the offset select it, and nothing can evaluate it. -/
opaque Config.unwrittenByte : Nat → Nat → Byte

end Sys2Proof
end

