-- ==== Sys2Proof/Syntax.lean ====
section
/-! DEFINITION. The operations of the block: one constructor of `Instr` per row of opcode_table.json (30_encoding.md
R60, R61), the records their results carry, and the frames in which they arrive. -/

namespace Sys2Proof

/-- The decoded view of the first 8 bytes of a report (10_state.md R21, 41_report_codec.md R80). `len` is the raw
wire field, body length + 4 (R81). -/
structure ReportHeader where
  reportId : Byte
  echo     : Byte
  checksum : U16
  status   : BitVec 6
  len      : BitVec 10
  command  : Byte
  index    : Byte
  deriving DecidableEq, Repr

/-- A chunk: the u32 address, the data length and the data bytes (42_frame_accumulator.md R96). -/
structure Chunk where
  addr : U32
  dlen : Nat
  data : List Byte
  deriving DecidableEq, Repr

/-- The operations. The first fourteen are the op-select codes 0x0 to 0xD of 30_encoding.md R60 in order; the last
four are the wire report kinds of R61, with the header fields their pattern leaves open. `t` is the timestamp an
event carries (10_state.md R25). -/
inductive Instr where
  /-- 0x0, 40_checksum.md R70. -/
  | csum (B : List Byte)
  /-- 0x1, 40_checksum.md R72. -/
  | verify (B : List Byte)
  /-- 0x2, 41_report_codec.md R84. -/
  | build (echo command index : Byte) (body : List Byte)
  /-- 0x3, 41_report_codec.md R83. -/
  | parse (B : List Byte)
  /-- 0x4, 41_report_codec.md R86; `c` is the expected command. -/
  | qualify (n : Int) (B : List Byte) (c : Byte)
  /-- 0x5, 42_frame_accumulator.md R96. -/
  | chunk (n : Int) (B : List Byte)
  /-- 0x6, 41_report_codec.md R88. -/
  | sizedec (n : Int) (B : List Byte)
  /-- 0x7, 42_frame_accumulator.md R98. -/
  | accum (addr : U32) (data : List Byte)
  /-- 0x8, 43_sequencer.md R112. -/
  | capStart (w h : U16) (t : Nat)
  /-- 0x9, 43_sequencer.md R113. -/
  | qStart (t : Nat)
  /-- 0xA, 43_sequencer.md R114. -/
  | txOk (t : Nat)
  /-- 0xB, 43_sequencer.md R115. -/
  | txFail (t : Nat)
  /-- 0xC, 43_sequencer.md R116, R117, R128. -/
  | rx (n : Int) (B : List Byte) (t : Nat)
  /-- 0xD, 43_sequencer.md R129. -/
  | rxFatal (t : Nat)
  /-- Outbound, 30_encoding.md R57, R61: report id, status, length, command and index are the pattern's. -/
  | reqSysinfo (echo : Byte) (checksum : U16) (body : List Byte)
  /-- Outbound, 30_encoding.md R57, R61. -/
  | reqScreenbuf (echo : Byte) (checksum : U16) (body : List Byte)
  /-- Inbound, 30_encoding.md R58, R61: report id and command are the pattern's. -/
  | rspSysinfo (echo : Byte) (checksum : U16) (status : BitVec 6) (len : BitVec 10) (index : Byte)
      (body : List Byte) (t : Nat)
  /-- Inbound, 30_encoding.md R59, R61. -/
  | rspScreenbuf (echo : Byte) (checksum : U16) (status : BitVec 6) (len : BitVec 10) (index : Byte)
      (body : List Byte) (t : Nat)
  deriving DecidableEq, Repr

/-- The operands that stand beside an op-select code. The spec gives them names and widths (30_encoding.md R60) and
no bit positions, so they are plain fields, zero or empty where an operation has no such operand (log 6). -/
structure OpArgs where
  echo    : Byte := 0
  command : Byte := 0
  index   : Byte := 0
  /-- The expected command `c` of QUALIFY. -/
  expect  : Byte := 0
  /-- The byte count `n` of a read. -/
  n       : Int := 0
  addr    : U32 := 0
  w       : U16 := 0
  h       : U16 := 0
  /-- The buffer operand: `B`, `body` or `data`. -/
  buf     : List Byte := []
  /-- The timestamp of an event. -/
  t       : Nat := 0
  deriving DecidableEq, Repr

/-- What stands at the event port (10_state.md R24) or on the wire (30_encoding.md R50). -/
inductive Frame where
  /-- An operation: its 4-bit op-select code and its operands. -/
  | op (code : BitVec 4) (args : OpArgs)
  /-- A report the transport read, with the timestamp of the read. -/
  | wireIn (bytes : List Byte) (t : Nat)
  /-- A report the block writes. Direction tells a request from a response (R56). -/
  | wireOut (bytes : List Byte)
  deriving DecidableEq, Repr

end Sys2Proof
end

