-- ==== Sys2Proof/WellFormed.lean ====
section
/-! DEFINITION. Which operands an operation is defined on (30_encoding.md R60, 10_state.md R22, 41_report_codec.md
R82): the checks, each with the name under which an operation that fails it is refused. -/

namespace Sys2Proof

/-- Why the operands of an operation are outside its definition. -/
inductive IllFormed where
  /-- The buffer does not hold `max(n, 0)` bytes (10_state.md R22). -/
  | countMismatch
  /-- The read is longer than REPORT_LEN (30_encoding.md R64). -/
  | reportTooLong
  /-- PARSE has no result on fewer than 8 bytes (41_report_codec.md R82). -/
  | headerTooShort
  deriving DecidableEq, Repr

/-- `|B| = max(n, 0)` (10_state.md R22). -/
abbrev CountOk (n : Int) (B : List Byte) : Prop := B.length = n.toNat

/-- The first check an operation's operands fail, if any. -/
def Instr.defect (p : Params) : Instr → Option IllFormed
  | .csum _ => none
  | .verify _ => none
  | .build _ _ _ _ => none
  | .parse B => if B.length < headerSize then some .headerTooShort else none
  | .qualify n B _ => if CountOk n B then none else some .countMismatch
  | .chunk n B =>
    if ¬ CountOk n B then some .countMismatch
    else if B.length < headerSize then some .headerTooShort else none
  | .sizedec n B => if CountOk n B then none else some .countMismatch
  | .accum _ _ => none
  | .capStart _ _ _ => none
  | .qStart _ => none
  | .txOk _ => none
  | .txFail _ => none
  | .rx n B _ =>
    if ¬ CountOk n B then some .countMismatch
    else if n > (p.reportLen : Int) then some .reportTooLong else none
  | .rxFatal _ => none
  | .reqSysinfo _ _ _ => none
  | .reqScreenbuf _ _ _ => none
  | .rspSysinfo _ _ _ _ _ body _ =>
    if headerSize + body.length > p.reportLen then some .reportTooLong else none
  | .rspScreenbuf _ _ _ _ _ body _ =>
    if headerSize + body.length > p.reportLen then some .reportTooLong else none

/-- The operands of `i` are ones its rule is stated for, under the parameters `p`. -/
abbrev WellFormed (p : Params) (i : Instr) : Prop := i.defect p = none

end Sys2Proof
end

