-- ==== Sys2Proof/Machine/Operands.lean ====
section
/-! DEFINITION. Operand forms: bytes of a buffer, the little-endian fields, the header's fields in both directions
(30_encoding.md R50 to R55), the checksum of a buffer (40_checksum.md R70), and the units that are functions of
bytes alone: PARSE, BUILD, CHUNK, SIZEDEC. -/

namespace Sys2Proof.Machine

/-- `B[i]`. No rule reads at or past `|B|`: every reader states its length guard (00_scope.md section 6), so the 0
that stands for a missing byte is never used. -/
def byteAt (B : List Byte) (i : Nat) : Byte := B.getD i 0

/-- `le16(B, i)`: the byte at the lower offset is the low byte (20_memory.md R36). -/
def le16 (B : List Byte) (i : Nat) : U16 := byteAt B (i + 1) ++ byteAt B i

/-- `le32(B, i)`: least significant byte first (20_memory.md R36). -/
def le32 (B : List Byte) (i : Nat) : U32 := le16 B (i + 2) ++ le16 B i

/-- `lo8(v) = v & 0xFF`. -/
def lo8 (v : U16) : Byte := v.setWidth 8

/-- `hi8(v) = (v >> 8) & 0xFF`. -/
def hi8 (v : U16) : Byte := (v >>> 8).setWidth 8

/-- The four bytes of a u32, least significant first (`le32bytes`, 30_encoding.md R65). -/
def le32bytes (a : U32) : List Byte :=
  [a.setWidth 8, (a >>> 8).setWidth 8, (a >>> 16).setWidth 8, (a >>> 24).setWidth 8]

/-- The status and length field: `f = (status << 10) | (len & 0x3FF)` (30_encoding.md R52). -/
def packStatusLen (status : BitVec 6) (len : BitVec 10) : U16 := status ++ len

/-- `len = f[9:0]` (30_encoding.md R52). -/
def lenField (f : U16) : BitVec 10 := f.setWidth 10

/-- `status = f[15:10]` (30_encoding.md R52). -/
def statusField (f : U16) : BitVec 6 := (f >>> 10).setWidth 6

/-- The 8 header bytes of a report (30_encoding.md R50). -/
def packHeader (h : ReportHeader) : List Byte :=
  [h.reportId, h.echo, lo8 h.checksum, hi8 h.checksum,
   lo8 (packStatusLen h.status h.len), hi8 (packStatusLen h.status h.len), h.command, h.index]

/-- The header's fields read from offsets 0 to 7 (41_report_codec.md R83), where they are known to be present. -/
def headerOf (B : List Byte) : ReportHeader :=
  let f := le16 B 4
  { reportId := byteAt B 0, echo := byteAt B 1, checksum := le16 B 2,
    status := statusField f, len := lenField f, command := byteAt B 6, index := byteAt B 7 }

/-- PARSE (41_report_codec.md R83): no result on fewer than 8 bytes (R82). -/
def parseHeader (B : List Byte) : Option ReportHeader :=
  if B.length < headerSize then none else some (headerOf B)

/-- The header word H: the 8 header bytes as one little-endian 64-bit value (30_encoding.md R51). -/
def headerWord (B : List Byte) : BitVec 64 := le32 B 4 ++ le32 B 0

/-- The body length a receiver derives, defined only for `len ≥ 4` (41_report_codec.md R81). -/
def payloadLength (h : ReportHeader) : Option Nat :=
  if 4 ≤ h.len.toNat then some (h.len.toNat - 4) else none

/-- What the byte at offset `i` adds to the checksum: its value at an even offset, its value shifted left by 8 at an
odd one (40_checksum.md R70). -/
def csumTerm (i : Nat) (b : Byte) : U16 :=
  if i % 2 = 0 then b.setWidth 16 else (b.setWidth 16) <<< 8

/-- The checksum loop from offset `i` on, with the sum `acc` so far; addition drops the carry (40_checksum.md R70). -/
def csumFrom (acc : U16) (i : Nat) : List Byte → U16
  | [] => acc
  | b :: bs => csumFrom (acc + csumTerm i b) (i + 1) bs

/-- CSUM (40_checksum.md R70). -/
def csum (B : List Byte) : U16 := csumFrom 0 0 B

/-- `B` with the checksum field as zero: offsets 2 and 3 (40_checksum.md R72). -/
def zeroChecksum (B : List Byte) : List Byte := (B.set 2 0).set 3 0

/-- A report of REPORT_LEN bytes: the header, then the body truncated to BODY_CAP bytes, then zeros
(41_report_codec.md R84). -/
def layReport (p : Params) (h : ReportHeader) (body : List Byte) : List Byte :=
  packHeader h ++ (body.take p.bodyCap ++ List.replicate (p.bodyCap - body.length) 0)

/-- A report with its checksum: computed over the finished buffer with the field still zero, then stored
(40_checksum.md R75, 20_memory.md R43). -/
def sealReport (p : Params) (h : ReportHeader) (body : List Byte) : List Byte :=
  layReport p { h with checksum := csum (layReport p { h with checksum := 0 } body) } body

/-- BUILD (41_report_codec.md R84): status 0, and the length field is that of the untruncated body, modulo 1024
(R85). -/
def buildReport (p : Params) (echo command index : Byte) (body : List Byte) : List Byte :=
  sealReport p
    { reportId := p.reportId, echo := echo, checksum := 0, status := 0,
      len := BitVec.ofNat 10 (body.length + 4), command := command, index := index } body

/-- `REQ c`, the request the block sends: BUILD ECHO, c, 0, [] (30_encoding.md R57, R65). -/
def request (p : Params) (c : Byte) : List Byte := buildReport p p.echo c 0 []

/-- CHUNK (42_frame_accumulator.md R96) on a buffer whose header is present: the header's length field is the
measure, and a chunk that the received bytes do not back is discarded. -/
def extractChunk (n : Int) (B : List Byte) : Option Chunk :=
  let len := (headerOf B).len.toNat
  if len < 8 then none
  else if (len : Int) + 4 > n then none
  else some { addr := le32 B 8, dlen := len - 8, data := (B.drop 12).take (len - 8) }

/-- SIZEDEC (41_report_codec.md R88). -/
def decodeSize (n : Int) (B : List Byte) : Option (U16 × U16) :=
  if n < (headerSize : Int) + 4 then none else some (le16 B 8, le16 B 10)

end Sys2Proof.Machine
end

