-- ==== Sys2Proof/Decode.lean ====
section
/-! DEFINITION. Decoding: from a frame to an operation or an error by name, by the op-select codes of 30_encoding.md
R60 and the header patterns of R61; then the encoder, written from the same tables. -/

namespace Sys2Proof

/-- Why a frame is no operation. -/
inductive DecodeError where
  /-- Op codes 0xE and 0xF (30_encoding.md R63). -/
  | unassignedOp (code : BitVec 4)
  /-- An outbound report that is neither request: the block sends nothing else (43_sequencer.md R131). -/
  | noReportKind
  deriving DecidableEq, Repr

/-- The op-select codes (30_encoding.md R60). -/
def decodeOp (code : BitVec 4) (a : OpArgs) : Except DecodeError Instr :=
  match code.toNat with
  | 0x0 => .ok (.csum a.buf)
  | 0x1 => .ok (.verify a.buf)
  | 0x2 => .ok (.build a.echo a.command a.index a.buf)
  | 0x3 => .ok (.parse a.buf)
  | 0x4 => .ok (.qualify a.n a.buf a.expect)
  | 0x5 => .ok (.chunk a.n a.buf)
  | 0x6 => .ok (.sizedec a.n a.buf)
  | 0x7 => .ok (.accum a.addr a.buf)
  | 0x8 => .ok (.capStart a.w a.h a.t)
  | 0x9 => .ok (.qStart a.t)
  | 0xA => .ok (.txOk a.t)
  | 0xB => .ok (.txFail a.t)
  | 0xC => .ok (.rx a.n a.buf a.t)
  | 0xD => .ok (.rxFatal a.t)
  | _ => .error (.unassignedOp code)

/-- The mask of the two request rows: report id, status and length, command and index (30_encoding.md R61). -/
def reqMask : BitVec 64 := 0xFFFFFFFF000000FF#64

/-- The mask of the two response rows: report id and command (30_encoding.md R61). -/
def rspMask : BitVec 64 := 0x00FF0000000000FF#64

/-- The match value of a request row with report id `r` and command `c`: length 4, status 0, index 0
(30_encoding.md R61). -/
def reqMatch (r c : Byte) : BitVec 64 := 0#8 ++ (c ++ (0x0004#16 ++ (0#24 ++ r)))

/-- The match value of a response row (30_encoding.md R61). -/
def rspMatch (r c : Byte) : BitVec 64 := 0#8 ++ (c ++ (0#40 ++ r))

/-- Does the report begin with a header that meets the row's mask and match? -/
def meetsRow (mask mtch : BitVec 64) (B : List Byte) : Bool :=
  decide (headerSize ≤ B.length) && decide (Machine.headerWord B &&& mask = mtch)

/-- An outbound report: one of the two requests, or none (30_encoding.md R61, 43_sequencer.md R131). -/
def decodeOut (p : Params) (B : List Byte) : Except DecodeError Instr :=
  let h := Machine.headerOf B
  if meetsRow reqMask (reqMatch p.reportId p.cmdSysinfo) B then
    .ok (.reqSysinfo h.echo h.checksum (B.drop 8))
  else if meetsRow reqMask (reqMatch p.reportId p.cmdScreenbuf) B then
    .ok (.reqScreenbuf h.echo h.checksum (B.drop 8))
  else .error .noReportKind

/-- An inbound report: one of the two responses; any other report, also one shorter than a header, is the plain `RX`
event, whose filter discards it (30_encoding.md R61, R62). -/
def decodeIn (p : Params) (B : List Byte) (t : Nat) : Instr :=
  let h := Machine.headerOf B
  if meetsRow rspMask (rspMatch p.reportId p.cmdSysinfo) B then
    .rspSysinfo h.echo h.checksum h.status h.len h.index (B.drop 8) t
  else if meetsRow rspMask (rspMatch p.reportId p.cmdScreenbuf) B then
    .rspScreenbuf h.echo h.checksum h.status h.len h.index (B.drop 8) t
  else .rx B.length B t

/-- The decoder: total on every frame. It names the operation and drops no bit; whether the operands are ones the
operation is defined on (`WellFormed`) is asked by its meaning. -/
def decode (p : Params) : Frame → Except DecodeError Instr
  | .op code a => decodeOp code a
  | .wireIn B t => .ok (decodeIn p B t)
  | .wireOut B => decodeOut p B

/-- The frame of an operation, from the same tables. -/
def encode (p : Params) : Instr → Frame
  | .csum B => .op 0x0 { buf := B }
  | .verify B => .op 0x1 { buf := B }
  | .build e c i body => .op 0x2 { echo := e, command := c, index := i, buf := body }
  | .parse B => .op 0x3 { buf := B }
  | .qualify n B c => .op 0x4 { n := n, buf := B, expect := c }
  | .chunk n B => .op 0x5 { n := n, buf := B }
  | .sizedec n B => .op 0x6 { n := n, buf := B }
  | .accum a d => .op 0x7 { addr := a, buf := d }
  | .capStart w h t => .op 0x8 { w := w, h := h, t := t }
  | .qStart t => .op 0x9 { t := t }
  | .txOk t => .op 0xA { t := t }
  | .txFail t => .op 0xB { t := t }
  | .rx n B t => .op 0xC { n := n, buf := B, t := t }
  | .rxFatal t => .op 0xD { t := t }
  | .reqSysinfo e cs body =>
    .wireOut (Machine.packHeader ⟨p.reportId, e, cs, 0, 4, p.cmdSysinfo, 0⟩ ++ body)
  | .reqScreenbuf e cs body =>
    .wireOut (Machine.packHeader ⟨p.reportId, e, cs, 0, 4, p.cmdScreenbuf, 0⟩ ++ body)
  | .rspSysinfo e cs st len ix body t =>
    .wireIn (Machine.packHeader ⟨p.reportId, e, cs, st, len, p.cmdSysinfo, ix⟩ ++ body) t
  | .rspScreenbuf e cs st len ix body t =>
    .wireIn (Machine.packHeader ⟨p.reportId, e, cs, st, len, p.cmdScreenbuf, ix⟩ ++ body) t

/-- The operands of zeros that stand beside a bare op-select code (log 7). PARSE and CHUNK are defined on buffers that
hold a header (41_report_codec.md R82, 42_frame_accumulator.md R96): theirs is HEADER_SIZE zero bytes. -/
def zeroArgs (code : BitVec 4) : OpArgs :=
  if code = 0x3#4 then { buf := List.replicate headerSize 0 }
  else if code = 0x5#4 then { n := (headerSize : Int), buf := List.replicate headerSize 0 }
  else {}

/-- The frame a table word stands for (log 7). A word of at most 32 bits is an op-select code in its low 4 bits; a
64-bit word is the 8 header bytes, first byte lowest. The table's word does not carry the direction (R56): a header
with the length, status and index of a request (4, 0, 0) is laid on the outbound side, any other on the inbound
side. -/
def frameOfWord (nbits w : Nat) : Frame :=
  if nbits ≤ 32 then .op (BitVec.ofNat 4 w) (zeroArgs (BitVec.ofNat 4 w))
  else
    let B := (List.range 8).map fun k => BitVec.ofNat 8 (w >>> (8 * k))
    if Machine.le16 B 4 = 0x0004#16 ∧ Machine.byteAt B 7 = 0 then .wireOut B else .wireIn B 0

/-- What the decoder reads from a table word, under the source's default parameters. -/
def decodeTableWord (nbits w : Nat) : Option Instr :=
  (decode Params.standard (frameOfWord nbits w)).toOption

end Sys2Proof
end

