-- ==== Sys2Proof/Machine/State.lean ====
section
/-! DEFINITION. The state record of 10_state.md R10 with the configuration registers of R20 and the ports of R24,
the reasons a step can stop, and the state after reset (R27). -/

namespace Sys2Proof.Machine

/-- Bytes by offset: strictly rising offsets, each byte one that something wrote. An unlisted offset holds no value
that anything has written (log 4). -/
abbrev Memory := List Host.Cell

/-- STATE (10_state.md R11). Code 7 is never written and has no name. -/
inductive SeqState where
  | idle | requesting | collecting | complete | timedOut | deviceError | invalidDimensions
  deriving DecidableEq, Repr

/-- MODE (10_state.md R12). -/
inductive Mode where
  | capture | query
  deriving DecidableEq, Repr

/-- RESULT (10_state.md R13). -/
inductive CycleResult where
  | none | complete | partialFrame | noData | deviceError | invalidDimensions | queryOk | queryNone
  deriving DecidableEq, Repr

/-- What a step puts on the unit port or the result port (30_encoding.md R60, 10_state.md R24). -/
inductive UnitOut where
  /-- CSUM. -/
  | word (v : U16)
  /-- VERIFY, QUALIFY, ACCUM. -/
  | verdict (b : Bool)
  /-- BUILD, and the transport's read of TX. -/
  | report (bytes : List Byte)
  /-- PARSE. -/
  | header (h : ReportHeader)
  /-- CHUNK. -/
  | chunk (c : Option Chunk)
  /-- SIZEDEC. -/
  | size (d : Option (U16 × U16))
  /-- REQ.SYSINFO, REQ.SCREENBUF: the request of R57, and whether the frame is that request (log 8). -/
  | request (bytes : List Byte) (isIt : Bool)
  /-- A register read by the host. -/
  | register (v : Nat)
  /-- A byte of FB read by the host. -/
  | fbByte (b : Byte)
  deriving DecidableEq, Repr

/-- One thing the environment does to the block (10_state.md R24, 70_reset_and_hazards.md R160). -/
inductive Input where
  /-- An operation or a report on the wire. -/
  | frame (f : Frame)
  /-- Reset is asserted, the parameters are configured, reset is released; the events delivered meanwhile are lost
  (R160). -/
  | reset (p : Params) (lost : List Frame)
  /-- The host reads a register by its number (R11 to R20). -/
  | readRegister (number : Nat)
  /-- The host reads the byte of FB at an offset. -/
  | readFb (offset : Nat)
  /-- The transport reads TX. -/
  | readTx
  deriving DecidableEq, Repr

/-- The machine state. The first sixteen fields are the record of 10_state.md R10, in its order; `cfg` is the
configuration registers (R20); the rest are the ports and the model's own fields. -/
structure State where
  /-- STATE (R11). -/
  state    : SeqState
  /-- MODE (R12). -/
  mode     : Mode
  /-- RESULT (R13). -/
  result   : CycleResult
  /-- WIDTH (R14). -/
  width    : U16
  /-- HEIGHT (R14). -/
  height   : U16
  /-- FB, the written bytes (R22, 20_memory.md R30). -/
  fb       : Memory
  /-- MAX_END (R15). -/
  maxEnd   : Nat
  /-- PKT_COUNT (R16). -/
  pktCount : Nat
  /-- T_START (R17). -/
  tStart   : Nat
  /-- T_LAST (R17). -/
  tLast    : Nat
  /-- ELAPSED (R17). -/
  elapsed  : Nat
  /-- QWIDTH (R18). -/
  qWidth   : U16
  /-- QHEIGHT (R18). -/
  qHeight  : U16
  /-- Q_VALID (R18). -/
  qValid   : Bool
  /-- TX (R22). -/
  tx       : List Byte
  /-- TX_VALID (section 3 of 10_state.md). -/
  txValid  : Bool
  /-- The configuration registers (R20; log 1). -/
  cfg      : Params
  /-- The DONE pulse of the last step, with its RESULT (R24; log 11). -/
  done     : Option CycleResult
  /-- What the last step put on the unit or result port (log 10). -/
  out      : Option UnitOut
  /-- The inputs still to be delivered, oldest first (log 5). -/
  port     : List Input
  /-- The timestamp of the last event since reset (R25; log 12). -/
  tPrev    : Option Nat
  /-- How many frame buffers have been created; selects the free values of unwritten bytes (log 4). -/
  fbGen    : Nat
  deriving DecidableEq, Repr

/-- Why the machine stops with a fault. Both are reads of the host at a place that does not exist. -/
inductive Fault where
  /-- The host read a register number that 10_state.md section 3 and R20 do not assign. Safe: the model claims
  nothing of such a read (log 17). -/
  | noSuchRegister (number : Nat)
  /-- The host read FB at or past its size (20_memory.md R30: offsets 0 to EXPECTED - 1). Safe (log 19). -/
  | fbOffset (offset : Nat)
  deriving DecidableEq, Repr

/-- Why a step is refused: the input is outside the spec, and no behaviour of the block is claimed for it. -/
inductive Refusal where
  /-- An instruction without a meaning. Raised by no arm of `exec`. Safe. -/
  | notModelled (mnemonic : String)
  /-- Raised by an event whose timestamp is below the one before it (10_state.md R25, U12). Safe (log 12). -/
  | timestampDecreases
  /-- Raised by an operation whose operands break their definition (10_state.md R22, 30_encoding.md R64,
  41_report_codec.md R82, U1). Safe (logs 13, 14). -/
  | illFormed (why : IllFormed)
  /-- Raised by an outbound report that is neither request (43_sequencer.md R131). Safe (log 7). -/
  | noReportKind
  /-- Raised by the host's read of FB, MAX_END, PKT_COUNT or ELAPSED while a cycle runs (70_reset_and_hazards.md
  R166, U13). Safe. -/
  | readWhileRunning
  /-- Raised by the host's read of T_LAST, which it cannot read (10_state.md R23). Safe (log 17). -/
  | notHostReadable
  /-- Raised by the transport's read of TX while TX_VALID = 0 (10_state.md R27, U9). Safe (log 21). -/
  | txNotValid
  /-- Raised by reset with REPORT_LEN below HEADER_SIZE (00_scope.md R4). Safe (log 18). -/
  | illegalParameters
  deriving DecidableEq, Repr

/-- The outcome of a step of the block. -/
abbrev Outcome := Host.Outcome State Fault Refusal

/-- The state while reset is asserted with the parameters `p`, and in the step it is released (10_state.md R27).
TX, "unspecified: any REPORT_LEN bytes", is REPORT_LEN zero bytes (DESIGN CHOICE, log 3; unsafe to lean on). -/
def State.resetWith (p : Params) : State :=
  { state := .idle, mode := .capture, result := .none, width := 0, height := 0, fb := [], maxEnd := 0,
    pktCount := 0, tStart := 0, tLast := 0, elapsed := 0, qWidth := 0, qHeight := 0, qValid := false,
    tx := List.replicate p.reportLen 0, txValid := false, cfg := p, done := none, out := none, port := [],
    tPrev := none, fbGen := 0 }

/-- The machine right after reset, configured with the source's default parameters (10_state.md R27; log 2). -/
def State.reset : State := State.resetWith Params.standard

end Sys2Proof.Machine
end

