-- ==== Sys2Proof/Machine/Flags.lean ====
section
/-! DEFINITION. The booleans of the block. It keeps no condition-code register (10_state.md R19): each is a value
inside one step. VERIFY (40_checksum.md R72), the packet filter (41_report_codec.md R86), the range check
(42_frame_accumulator.md R97), what a request is (30_encoding.md R61), and the end conditions (43_sequencer.md R119
to R121). -/

namespace Sys2Proof.Machine

/-- VERIFY (40_checksum.md R72): total, false below HEADER_SIZE bytes (70_reset_and_hazards.md R164). -/
def verify (B : List Byte) : Bool :=
  if B.length < headerSize then false else decide (csum (zeroChecksum B) = le16 B 2)

/-- QUALIFY (41_report_codec.md R86). -/
def qualify (p : Params) (n : Int) (B : List Byte) (c : Byte) : Bool :=
  if n < (headerSize : Int) then false
  else
    match parseHeader B with
    | none => false
    | some h =>
      if h.reportId ≠ p.reportId then false
      else if h.echo ≠ p.echo ∧ h.echo ≠ 0 then false
      else if h.command ≠ c then false
      else verify B

/-- Is the outbound report the request with command `c` (30_encoding.md R57, R61): the row's fixed fields, echo =
ECHO, a valid checksum, an all-zero body, REPORT_LEN bytes. -/
def isRequest (p : Params) (c : Byte) (B : List Byte) : Bool :=
  let h := headerOf B
  decide (B.length = p.reportLen) && decide (h.reportId = p.reportId) && decide (h.echo = p.echo)
    && decide (h.status = 0) && decide (h.len = 4) && decide (h.command = c) && decide (h.index = 0)
    && (B.drop 8).all (· == 0) && verify B

/-- EXPECTED = WIDTH * HEIGHT * 2, an exact natural number (00_scope.md R5). -/
def State.expected (s : State) : Nat := s.width.toNat * s.height.toNat * 2

/-- A chunk of `dlen` bytes at `addr` is in range (42_frame_accumulator.md R97): the sum does not wrap. -/
def inRange (s : State) (addr : U32) (dlen : Nat) : Bool := decide (addr.toNat + dlen ≤ s.expected)

/-- Coverage is reached (43_sequencer.md R119). -/
def coverageReached (s : State) : Bool := decide (s.expected ≤ s.maxEnd)

/-- The command deadline has passed: strictly more than CMD_TIMEOUT_MS (43_sequencer.md R121). -/
def deadlinePassed (s : State) (t : Nat) : Bool := decide (t - s.tStart > s.cfg.cmdTimeoutMs)

/-- The idle-break condition (43_sequencer.md R120). -/
def idleBreak (s : State) (n : Int) (t : Nat) : Bool :=
  decide (n ≤ 0) && coverageReached s && decide (t - s.tLast > s.cfg.idleBreakMs)

/-- A start event has a row in the transition table: STATE is Idle, Complete or TimedOut (43_sequencer.md R110). -/
def SeqState.acceptsStart : SeqState → Bool
  | .idle => true
  | .complete => true
  | .timedOut => true
  | .requesting => false
  | .collecting => false
  | .deviceError => false
  | .invalidDimensions => false

/-- A cycle is running: STATE is Requesting or Collecting (10_state.md R11). -/
def SeqState.running : SeqState → Bool
  | .requesting => true
  | .collecting => true
  | .idle => false
  | .complete => false
  | .timedOut => false
  | .deviceError => false
  | .invalidDimensions => false

/-- The command code the current cycle expects (41_report_codec.md R86). -/
def expectedCommand (p : Params) : Mode → Byte
  | .capture => p.cmdScreenbuf
  | .query => p.cmdSysinfo

end Sys2Proof.Machine
end

