-- ==== Sys2Proof/Machine/Ops.lean ====
section
/-! DEFINITION. The named operations over memory and registers: bytes of FB, ACCUM, how a cycle starts and ends
(the block's rendering of taking an exception and returning from it, 60_exceptions.md R151, R152), and the shapes
every meaning shares. -/

namespace Sys2Proof.Machine

/-- Offsets strictly rising. -/
def Memory.wf : Memory → Bool
  | [] => true
  | [_] => true
  | x :: y :: rest => decide (x.1 < y.1) && Memory.wf (y :: rest)

/-- The byte that was written at offset `a`, if any was. -/
def Memory.get? (m : Memory) (a : Nat) : Option Byte :=
  match m with
  | [] => none
  | c :: rest => if c.1 = a then some c.2 else Memory.get? rest a

/-- Store one byte, keeping the offsets rising. -/
def Memory.write (m : Memory) (a : Nat) (b : Byte) : Memory :=
  match m with
  | [] => [(a, b)]
  | c :: rest =>
    if a < c.1 then (a, b) :: c :: rest
    else if a = c.1 then (a, b) :: rest
    else c :: Memory.write rest a b

/-- `MemWrite(addr, |data|, data)`: data byte `i` goes to offset `addr + i`, in wire order (20_memory.md R36). -/
def Memory.writeBytes (m : Memory) (a : Nat) : List Byte → Memory
  | [] => m
  | b :: bs => Memory.writeBytes (Memory.write m a b) (a + 1) bs

/-- The byte of FB at offset `a`, as the host reads it: what was written there, or the free value the buffer was
created with (20_memory.md R31, U5). -/
def State.fbByte (s : State) (a : Nat) : Byte :=
  match s.fb.get? a with
  | some b => b
  | none => Config.unwrittenByte s.fbGen a

/-- ACCUM (42_frame_accumulator.md R98): the state after it, and whether the chunk was accepted. An out-of-range
chunk is dropped entirely (R97). -/
def accumulate (addr : U32) (data : List Byte) (s : State) : State × Bool :=
  if inRange s addr data.length then
    ({ s with fb := s.fb.writeBytes addr.toNat data, maxEnd := max s.maxEnd (addr.toNat + data.length) }, true)
  else (s, false)

/-- `end_cycle(state, result, t)`, the common tail of every step that ends a cycle (43_sequencer.md R125); what
stands in the place of taking an exception (60_exceptions.md R151). -/
def endCycle (st : SeqState) (r : CycleResult) (t : Nat) (s : State) : State :=
  { s with state := st, result := r, elapsed := t - s.tStart, txValid := false, done := some r }

/-- What the two start events share (43_sequencer.md R112, R113, 70_reset_and_hazards.md R161): the statistics and
RESULT are cleared, the time starts, the request stands in TX. It is also the way back from the restartable outcomes
(60_exceptions.md R152). -/
def beginCycle (m : Mode) (t : Nat) (s : State) : State :=
  { s with mode := m, pktCount := 0, elapsed := 0, tStart := t, tLast := t,
           tx := request s.cfg (expectedCommand s.cfg m), txValid := true, result := .none, state := .requesting }

/-- The frame buffer for `w * h` pixels: kept if the dimensions are the same, else replaced by a new one whose bytes
are all unspecified (20_memory.md R31). -/
def setDimensions (w h : U16) (s : State) : State :=
  if w = s.width ∧ h = s.height then s
  else { s with width := w, height := h, fb := [], fbGen := s.fbGen + 1 }

/-- Every event carries a timestamp; a decreasing sequence is refused (10_state.md R25, U12). The effect is a next
state always. -/
def onEvent (t : Nat) (s : State) (effect : State → State) : Outcome :=
  if s.tPrev.any (fun t0 => decide (t < t0)) then .refused .timestampDecreases
  else .next (effect { s with tPrev := some t })

/-- An operation whose operands are outside its definition is refused by name. -/
def whenWellFormed (i : Instr) (s : State) (k : Outcome) : Outcome :=
  match i.defect s.cfg with
  | none => k
  | some why => .refused (.illFormed why)

/-- A unit puts its result on the unit port and touches nothing else (10_state.md R28). -/
def giveResult (o : UnitOut) (s : State) : Outcome := .next { s with out := some o }

/-- A step begins with no pulse on the terminal-event port and no result on the unit port (10_state.md R24). -/
def State.openStep (s : State) : State := { s with done := none, out := none }

end Sys2Proof.Machine
end

