-- ==== Sys2Proof/Machine/Accumulator.lean ====
section
/-! DEFINITION. The chunk extractor and the frame-address accumulator (42_frame_accumulator.md). -/

namespace Sys2Proof.Machine

/-- CHUNK (42_frame_accumulator.md R96). -/
def execChunk (n : Int) (B : List Byte) (s : State) : Outcome :=
  whenWellFormed (.chunk n B) s (giveResult (.chunk (extractChunk n B)) s)

/-- ACCUM (42_frame_accumulator.md R98). As an operation of its own it has no condition on STATE (log 15). -/
def execAccum (addr : U32) (data : List Byte) (s : State) : Outcome :=
  giveResult (.verdict (accumulate addr data s).2) (accumulate addr data s).1

end Sys2Proof.Machine
end

