-- ==== Sys2Proof/Machine/Checksum.lean ====
section
/-! DEFINITION. The checksum unit (40_checksum.md). -/

namespace Sys2Proof.Machine

/-- CSUM (40_checksum.md R70). -/
def execCsum (B : List Byte) (s : State) : Outcome := giveResult (.word (csum B)) s

/-- VERIFY (40_checksum.md R72). -/
def execVerify (B : List Byte) (s : State) : Outcome := giveResult (.verdict (verify B)) s

end Sys2Proof.Machine
end

