-- ==== Sys2Proof/Machine/Codec.lean ====
section
/-! DEFINITION. The report codec and packet filter (41_report_codec.md). -/

namespace Sys2Proof.Machine

/-- BUILD (41_report_codec.md R84, R85). -/
def execBuild (echo command index : Byte) (body : List Byte) (s : State) : Outcome :=
  giveResult (.report (buildReport s.cfg echo command index body)) s

/-- PARSE (41_report_codec.md R83); refused on fewer than 8 bytes (R82). -/
def execParse (B : List Byte) (s : State) : Outcome :=
  match parseHeader B with
  | some h => giveResult (.header h) s
  | none => .refused (.illFormed .headerTooShort)

/-- QUALIFY (41_report_codec.md R86). -/
def execQualify (n : Int) (B : List Byte) (c : Byte) (s : State) : Outcome :=
  whenWellFormed (.qualify n B c) s (giveResult (.verdict (qualify s.cfg n B c)) s)

/-- SIZEDEC (41_report_codec.md R88). -/
def execSizedec (n : Int) (B : List Byte) (s : State) : Outcome :=
  whenWellFormed (.sizedec n B) s (giveResult (.size (decodeSize n B)) s)

end Sys2Proof.Machine
end

