-- ==== Sys2Proof/Machine/Sequencer.lean ====
section
/-! DEFINITION. The capture-cycle sequencer (43_sequencer.md): the effect of each event on the state, and the six
events. An event in a STATE for which R110 has no row changes nothing (R111). -/

namespace Sys2Proof.Machine

/-- The effect of CAP_START (43_sequencer.md R112). -/
def capStartEffect (w h : U16) (t : Nat) (s : State) : State :=
  if s.state.acceptsStart then
    if w = 0 ∨ h = 0 then
      { s with mode := .capture, state := .invalidDimensions, result := .invalidDimensions, elapsed := 0,
               done := some .invalidDimensions }
    else
      beginCycle .capture t { setDimensions w h s with maxEnd := 0 }
  else s

/-- The effect of Q_START (43_sequencer.md R113). -/
def qStartEffect (t : Nat) (s : State) : State :=
  if s.state.acceptsStart then
    beginCycle .query t { s with qWidth := 0, qHeight := 0, qValid := false }
  else s

/-- The effect of TX_OK (43_sequencer.md R114). -/
def txOkEffect (t : Nat) (s : State) : State :=
  if s.state = .requesting then
    if deadlinePassed s t then
      match s.mode with
      | .capture => endCycle .timedOut .noData t s
      | .query => endCycle .timedOut .queryNone t s
    else { s with txValid := false, state := .collecting }
  else s

/-- The effect of TX_FAIL (43_sequencer.md R115). -/
def txFailEffect (t : Nat) (s : State) : State :=
  if s.state = .requesting then
    match s.mode with
    | .capture => endCycle .deviceError .deviceError t s
    | .query => endCycle .timedOut .queryNone t s
  else s

/-- Step 1 of RX in Capture mode: use the packet (43_sequencer.md R116). A packet that does not qualify, or whose
chunk is discarded or out of range, changes nothing but, if it qualified, PKT_COUNT (R118). -/
def usePacket (n : Int) (B : List Byte) (t : Nat) (s : State) : State :=
  if qualify s.cfg n B s.cfg.cmdScreenbuf then
    let s1 := { s with pktCount := s.pktCount + 1 }
    match extractChunk n B with
    | none => s1
    | some c =>
      let r := accumulate c.addr c.data s1
      if r.2 then { r.1 with tLast := t } else r.1
  else s

/-- Step 2 of RX in Capture mode: does the cycle end? The first condition that holds wins (43_sequencer.md R116,
R119 to R122). -/
def captureEnd (n : Int) (t : Nat) (s : State) : State :=
  if coverageReached s then endCycle .complete .complete t s
  else if idleBreak s n t then endCycle .complete .complete t s
  else if deadlinePassed s t then
    if s.maxEnd > 0 then endCycle .timedOut .partialFrame t s else endCycle .timedOut .noData t s
  else s

/-- RX in Query mode (43_sequencer.md R128). -/
def queryRead (n : Int) (B : List Byte) (t : Nat) (s : State) : State :=
  let timeout := fun s : State => if deadlinePassed s t then endCycle .timedOut .queryNone t s else s
  if qualify s.cfg n B s.cfg.cmdSysinfo then
    let s1 := { s with pktCount := s.pktCount + 1 }
    match decodeSize n B with
    | some (w, h) => endCycle .complete .queryOk t { s1 with qWidth := w, qHeight := h, qValid := true }
    | none => timeout s1
  else timeout s

/-- The effect of RX (43_sequencer.md R116, R117, R128). -/
def rxEffect (n : Int) (B : List Byte) (t : Nat) (s : State) : State :=
  if s.state = .collecting then
    match s.mode with
    | .capture => captureEnd n t (usePacket n B t s)
    | .query => queryRead n B t s
  else s

/-- The effect of RX_FATAL (43_sequencer.md R129). -/
def rxFatalEffect (t : Nat) (s : State) : State :=
  if s.state = .collecting then endCycle .deviceError .deviceError t s else s

/-- CAP_START w, h @t (43_sequencer.md R112). -/
def execCapStart (w h : U16) (t : Nat) (s : State) : Outcome := onEvent t s (capStartEffect w h t)

/-- Q_START @t (43_sequencer.md R113). -/
def execQStart (t : Nat) (s : State) : Outcome := onEvent t s (qStartEffect t)

/-- TX_OK @t (43_sequencer.md R114). -/
def execTxOk (t : Nat) (s : State) : Outcome := onEvent t s (txOkEffect t)

/-- TX_FAIL @t (43_sequencer.md R115). -/
def execTxFail (t : Nat) (s : State) : Outcome := onEvent t s (txFailEffect t)

/-- RX n, B @t (43_sequencer.md R116, R117, R128). -/
def execRx (n : Int) (B : List Byte) (t : Nat) (s : State) : Outcome :=
  whenWellFormed (.rx n B t) s (onEvent t s (rxEffect n B t))

/-- RX_FATAL @t (43_sequencer.md R129). -/
def execRxFatal (t : Nat) (s : State) : Outcome := onEvent t s (rxFatalEffect t)

end Sys2Proof.Machine
end

