-- ==== Sys2Proof/Machine/Wire.lean ====
section
/-! DEFINITION. The wire report kinds (30_encoding.md R61) as operations: an outbound request is the pseudo-operation
`REQ c` of R65 (log 8), an inbound response is the RX event that carries it (43_sequencer.md R116, R128; log 9). -/

namespace Sys2Proof.Machine

/-- The request with command `c` on the unit port, and whether the given report is that request. -/
def giveRequest (c : Byte) (echo : Byte) (checksum : U16) (body : List Byte) (s : State) : Outcome :=
  giveResult
    (.request (request s.cfg c)
      (isRequest s.cfg c (packHeader ⟨s.cfg.reportId, echo, checksum, 0, 4, c, 0⟩ ++ body))) s

/-- The bytes of a response with command `c` (30_encoding.md R61). -/
def responseBytes (p : Params) (c echo : Byte) (checksum : U16) (status : BitVec 6) (len : BitVec 10)
    (index : Byte) (body : List Byte) : List Byte :=
  packHeader ⟨p.reportId, echo, checksum, status, len, c, index⟩ ++ body

/-- REQ.SYSINFO (30_encoding.md R57, R61, R65). -/
def execReqSysinfo (echo : Byte) (checksum : U16) (body : List Byte) (s : State) : Outcome :=
  giveRequest s.cfg.cmdSysinfo echo checksum body s

/-- REQ.SCREENBUF (30_encoding.md R57, R61, R65). -/
def execReqScreenbuf (echo : Byte) (checksum : U16) (body : List Byte) (s : State) : Outcome :=
  giveRequest s.cfg.cmdScreenbuf echo checksum body s

/-- RSP.SYSINFO (30_encoding.md R58, R61; 43_sequencer.md R128 in Query mode, R118 in Capture mode). -/
def execRspSysinfo (echo : Byte) (checksum : U16) (status : BitVec 6) (len : BitVec 10) (index : Byte)
    (body : List Byte) (t : Nat) (s : State) : Outcome :=
  let B := responseBytes s.cfg s.cfg.cmdSysinfo echo checksum status len index body
  whenWellFormed (.rspSysinfo echo checksum status len index body t) s (onEvent t s (rxEffect B.length B t))

/-- RSP.SCREENBUF (30_encoding.md R59, R61; 43_sequencer.md R116 in Capture mode, R128 in Query mode). -/
def execRspScreenbuf (echo : Byte) (checksum : U16) (status : BitVec 6) (len : BitVec 10) (index : Byte)
    (body : List Byte) (t : Nat) (s : State) : Outcome :=
  let B := responseBytes s.cfg s.cfg.cmdScreenbuf echo checksum status len index body
  whenWellFormed (.rspScreenbuf echo checksum status len index body t) s (onEvent t s (rxEffect B.length B t))

end Sys2Proof.Machine
end

