-- ==== Sys2Proof/Machine/Dispatch.lean ====
section
/-! DEFINITION. One arm per constructor of Instr. -/

namespace Sys2Proof.Machine

def exec (i : Instr) (s : State) : Host.Outcome State Fault Refusal :=
  match i with
  | .csum B => Sys2Proof.Machine.execCsum B s
  | .verify B => Sys2Proof.Machine.execVerify B s
  | .build echo command index body => Sys2Proof.Machine.execBuild echo command index body s
  | .parse B => Sys2Proof.Machine.execParse B s
  | .qualify n B c => Sys2Proof.Machine.execQualify n B c s
  | .chunk n B => Sys2Proof.Machine.execChunk n B s
  | .sizedec n B => Sys2Proof.Machine.execSizedec n B s
  | .accum addr data => Sys2Proof.Machine.execAccum addr data s
  | .capStart w h t => Sys2Proof.Machine.execCapStart w h t s
  | .qStart t => Sys2Proof.Machine.execQStart t s
  | .txOk t => Sys2Proof.Machine.execTxOk t s
  | .txFail t => Sys2Proof.Machine.execTxFail t s
  | .rx n B t => Sys2Proof.Machine.execRx n B t s
  | .rxFatal t => Sys2Proof.Machine.execRxFatal t s
  | .reqSysinfo echo checksum body => Sys2Proof.Machine.execReqSysinfo echo checksum body s
  | .reqScreenbuf echo checksum body => Sys2Proof.Machine.execReqScreenbuf echo checksum body s
  | .rspSysinfo echo checksum status len index body t => Sys2Proof.Machine.execRspSysinfo echo checksum status len index body t s
  | .rspScreenbuf echo checksum status len index body t => Sys2Proof.Machine.execRspScreenbuf echo checksum status len index body t s

end Sys2Proof.Machine
end

