-- ==== Sys2Proof/Machine/Inputs.lean ====
section
/-! DEFINITION. What the block does with one input: a frame is decoded and executed; reset (70_reset_and_hazards.md
R160); the host's reads of the result port and the transport's read of the transmit port (10_state.md R24). -/

namespace Sys2Proof.Machine

/-- The codes of STATE (10_state.md R11). -/
def stateCode : SeqState → BitVec 3
  | .idle => 0
  | .requesting => 1
  | .collecting => 2
  | .complete => 3
  | .timedOut => 4
  | .deviceError => 5
  | .invalidDimensions => 6

/-- The codes of MODE (10_state.md R12). -/
def modeCode : Mode → BitVec 1
  | .capture => 0
  | .query => 1

/-- The codes of RESULT (10_state.md R13). -/
def resultCode : CycleResult → BitVec 3
  | .none => 0
  | .complete => 1
  | .partialFrame => 2
  | .noData => 3
  | .deviceError => 4
  | .invalidDimensions => 5
  | .queryOk => 6
  | .queryNone => 7

/-- The value of the register with a number of 10_state.md section 3 or R20. -/
def registerValue (s : State) : Nat → Option Nat
  | 0 => some (stateCode s.state).toNat
  | 1 => some (modeCode s.mode).toNat
  | 2 => some (resultCode s.result).toNat
  | 3 => some s.width.toNat
  | 4 => some s.height.toNat
  | 5 => some s.maxEnd
  | 6 => some s.pktCount
  | 7 => some s.tStart
  | 8 => some s.tLast
  | 9 => some s.elapsed
  | 10 => some s.qWidth.toNat
  | 11 => some s.qHeight.toNat
  | 12 => some s.qValid.toNat
  | 13 => some s.txValid.toNat
  | 16 => some s.cfg.reportId.toNat
  | 17 => some s.cfg.reportLen
  | 18 => some headerSize
  | 19 => some s.cfg.echo.toNat
  | 20 => some s.cfg.cmdSysinfo.toNat
  | 21 => some s.cfg.cmdScreenbuf.toNat
  | 22 => some s.cfg.readTimeoutMs
  | 23 => some s.cfg.cmdTimeoutMs
  | 24 => some s.cfg.idleBreakMs
  | _ => none

/-- MAX_END, PKT_COUNT and ELAPSED are not to be read while a cycle runs (70_reset_and_hazards.md R166). -/
def isStatistic (number : Nat) : Bool := number == 5 || number == 6 || number == 9

/-- The host reads a register (10_state.md R24). T_LAST is not readable (R23); the statistics are refused while a
cycle runs (70_reset_and_hazards.md R166). -/
def readRegister (number : Nat) (s : State) : Outcome :=
  match registerValue s number with
  | none => .fault (.noSuchRegister number)
  | some v =>
    if number = 8 then .refused .notHostReadable
    else if isStatistic number && s.state.running then .refused .readWhileRunning
    else giveResult (.register v) s

/-- The host reads a byte of FB: only while no cycle runs (70_reset_and_hazards.md R166), only inside the buffer. -/
def readFb (offset : Nat) (s : State) : Outcome :=
  if s.state.running then .refused .readWhileRunning
  else if offset < s.expected then giveResult (.fbByte (s.fbByte offset)) s
  else .fault (.fbOffset offset)

/-- The transport reads TX while TX_VALID = 1 (10_state.md R24). -/
def readTx (s : State) : Outcome :=
  if s.txValid then giveResult (.report s.tx) s else .refused .txNotValid

/-- Reset with the parameters `p` (70_reset_and_hazards.md R160, 10_state.md R27). The inputs still to come stay to
come, and the count of frame buffers goes on, so that no unwritten byte of a later buffer is known (log 4). -/
def takeReset (p : Params) (s : State) : Outcome :=
  if p.Legal then .next { State.resetWith p with port := s.port, fbGen := s.fbGen }
  else .refused .illegalParameters

/-- A frame: the decoded operation is executed; an unassigned op code is ignored (30_encoding.md R63), as an event
with its timestamp. -/
def takeFrame (f : Frame) (s : State) : Outcome :=
  match decode s.cfg f with
  | .ok i => exec i s
  | .error (.unassignedOp _) =>
    match f with
    | .op _ a => onEvent a.t s id
    | _ => .next s
  | .error .noReportKind => .refused .noReportKind

/-- One input. -/
def takeInput (i : Input) (s : State) : Outcome :=
  match i with
  | .frame f => takeFrame f s
  | .reset p _ => takeReset p s
  | .readRegister number => readRegister number s
  | .readFb offset => readFb offset s
  | .readTx => readTx s

/-- One step of the block: the oldest input, or, with no input, nothing (00_scope.md R7, 60_exceptions.md R155, R158). -/
def takeStep (s : State) : Outcome :=
  match s.port with
  | [] => .next s.openStep
  | i :: rest => takeInput i { s.openStep with port := rest }

end Sys2Proof.Machine
end

