-- ==== Sys2Proof/Machine/Step.lean ====
section
/-! DEFINITION. The step of the machine, and how a table word is placed where the next step takes its input. -/

namespace Sys2Proof.Machine

/-- One step: the oldest input of the port, whole (00_scope.md R6). -/
def step (s : State) : Host.Outcome State Fault Refusal := takeStep s

/-- `s` with the frame of a table word as its next input (logs 5, 7). -/
def State.withFetchWord (s : State) (nbits w : Nat) : State :=
  { s with port := .frame (frameOfWord nbits w) :: s.port }

end Sys2Proof.Machine
end

