-- ==== Sys2Proof/Safety.lean ====
section
/-! DEFINITION. What counts as a safe state, in the terms the claims use: the two invariants, the kinds of STATE, the
environment's duty on timestamps, and the sums of 40_checksum.md in exact arithmetic. -/

namespace Sys2Proof.Machine

/-- The environment's duty on time: the timestamp is not below the last one (10_state.md R25). -/
def TimeOk (s : State) (t : Nat) : Prop := ∀ t0, s.tPrev = some t0 → t0 ≤ t

/-- STATE is terminal: Complete, TimedOut, DeviceError or InvalidDimensions (00_scope.md section 7). -/
def SeqState.terminal : SeqState → Bool
  | .complete => true
  | .timedOut => true
  | .deviceError => true
  | .invalidDimensions => true
  | .idle => false
  | .requesting => false
  | .collecting => false

/-- STATE is sticky: only reset leaves it (43_sequencer.md R130). -/
def SeqState.sticky : SeqState → Bool
  | .deviceError => true
  | .invalidDimensions => true
  | .idle => false
  | .requesting => false
  | .collecting => false
  | .complete => false
  | .timedOut => false

/-- The RESULT codes that may stand beside a STATE and a MODE (60_exceptions.md R140). -/
def resultFits : SeqState → Mode → CycleResult → Bool
  | .idle, _, r => r == .none
  | .requesting, _, r => r == .none
  | .collecting, _, r => r == .none
  | .complete, .capture, r => r == .complete
  | .complete, .query, r => r == .queryOk
  | .timedOut, .capture, r => r == .partialFrame || r == .noData
  | .timedOut, .query, r => r == .queryNone
  | .deviceError, _, r => r == .deviceError
  | .invalidDimensions, .capture, r => r == .invalidDimensions
  | .invalidDimensions, .query, _ => false

/-- The start events (43_sequencer.md R112, R113). -/
def startEvent : Instr → Bool
  | .capStart _ _ _ => true
  | .qStart _ => true
  | _ => false

/-- The operations that deliver one read: RX, and the two responses it carries (43_sequencer.md R116, R128). -/
def readEvent : Instr → Bool
  | .rx _ _ _ => true
  | .rspSysinfo _ _ _ _ _ _ _ => true
  | .rspScreenbuf _ _ _ _ _ _ _ => true
  | _ => false

/-- The byte count and the bytes of the read that an operation delivers, if it delivers one: RX's own, and for a
response the report it stands for (43_sequencer.md R116, R128). -/
def readReport (p : Params) : Instr → Option (Int × List Byte)
  | .rx n B _ => some (n, B)
  | .rspSysinfo echo checksum status len index body _ =>
    let B := responseBytes p p.cmdSysinfo echo checksum status len index body
    some (B.length, B)
  | .rspScreenbuf echo checksum status len index body _ =>
    let B := responseBytes p p.cmdScreenbuf echo checksum status len index body
    some (B.length, B)
  | _ => none

/-- An outbound report is one of the two requests' shapes: the fixed header bytes of 30_encoding.md R57 and R61. -/
abbrev requestShape (p : Params) (B : List Byte) : Prop :=
  8 ≤ B.length ∧ B.getD 0 0 = p.reportId ∧ B.getD 4 0 = 4 ∧ B.getD 5 0 = 0 ∧
    (B.getD 6 0 = p.cmdSysinfo ∨ B.getD 6 0 = p.cmdScreenbuf) ∧ B.getD 7 0 = 0

/-- The operations that are events, and so change the sequencer's state (30_encoding.md R60). -/
def sequencerEvent (i : Instr) : Bool :=
  startEvent i || readEvent i ||
    match i with
    | .txOk _ => true
    | .txFail _ => true
    | .rxFatal _ => true
    | _ => false

/-- The timestamp an operation carries, if it is an event (10_state.md R25). -/
def eventTime : Instr → Option Nat
  | .capStart _ _ t => some t
  | .qStart t => some t
  | .txOk t => some t
  | .txFail t => some t
  | .rx _ _ t => some t
  | .rxFatal t => some t
  | .rspSysinfo _ _ _ _ _ _ t => some t
  | .rspScreenbuf _ _ _ _ _ _ t => some t
  | _ => none

/-- While a capture cycle runs, coverage is not reached (43_sequencer.md R123). -/
def State.Uncovered (s : State) : Prop :=
  s.state.running = true → s.mode = .capture → s.maxEnd < s.expected

/-- What holds of the buffers and of coverage in every state: the parameters are legal (00_scope.md R4), FB is in
canonical form and holds nothing outside its size (20_memory.md R30), MAX_END is at most EXPECTED (10_state.md R15),
TX is REPORT_LEN bytes (R22), and RESULT = Complete means MAX_END = EXPECTED (43_sequencer.md R124). -/
structure State.BufferInv (s : State) : Prop where
  legal : s.cfg.Legal
  fbWf : s.fb.wf = true
  fbInside : ∀ a b, s.fb.get? a = some b → a < s.expected
  maxEndLe : s.maxEnd ≤ s.expected
  txLength : s.tx.length = s.cfg.reportLen
  completeCovers : s.result = .complete → s.maxEnd = s.expected

/-- What holds of the control registers in every state: RESULT fits STATE and MODE (60_exceptions.md R140); TX_VALID
is 1 exactly in Requesting, and then TX is the request of the MODE (43_sequencer.md R112, R113, R125); a running
cycle has non-zero dimensions in Capture mode, ELAPSED 0 (10_state.md R17) and no query answer yet in Query mode
(R18); Q_VALID = 0 leaves the two values 0; the query outcomes say what Q_VALID is (60_exceptions.md R140); a partial
frame has coverage; the times do not decrease (10_state.md R17, R25). -/
structure State.ControlInv (s : State) : Prop where
  resultFits : resultFits s.state s.mode s.result = true
  txValidIff : s.txValid = true ↔ s.state = .requesting
  txIsRequest : s.txValid = true → s.tx = request s.cfg (expectedCommand s.cfg s.mode)
  captureHasFrame : s.state.running = true → s.mode = .capture → s.width ≠ 0 ∧ s.height ≠ 0
  runningElapsed : s.state.running = true → s.elapsed = 0
  runningQuery : s.state.running = true → s.mode = .query → s.qValid = false
  noAnswer : s.qValid = false → s.qWidth = 0 ∧ s.qHeight = 0
  queryOk : s.result = .queryOk → s.qValid = true
  queryNone : s.result = .queryNone → s.qValid = false
  partialCovers : s.result = .partialFrame → 0 < s.maxEnd
  startBeforeLast : s.tStart ≤ s.tLast
  lastBeforePrev : ∀ t, s.tPrev = some t → s.tLast ≤ t
  noEventYet : s.tPrev = none → s.tLast = 0 ∧ s.state = .idle

/-- The sum of the bytes at even offsets (40_checksum.md R70). -/
def evenSum (B : List Byte) : Nat := ∑ i ∈ Finset.range B.length, if i % 2 = 0 then (B.getD i 0).toNat else 0

/-- The sum of the bytes at odd offsets (40_checksum.md R70). -/
def oddSum (B : List Byte) : Nat := ∑ i ∈ Finset.range B.length, if i % 2 = 1 then (B.getD i 0).toNat else 0

/-- The bytes at the offsets of parity `r`, in order (40_checksum.md R71). -/
def bytesAtParity (r : Nat) (B : List Byte) : List Byte :=
  (B.zipIdx.filter fun x => x.2 % 2 == r).map Prod.fst

/-- The u16 at offsets `i`, `i + 1`, low byte first, as a number (00_scope.md section 6). -/
def natLe16 (B : List Byte) (i : Nat) : Nat := (B.getD i 0).toNat + 256 * (B.getD (i + 1) 0).toNat

/-- The u32 at offsets `i` to `i + 3`, low byte first, as a number (00_scope.md section 6). -/
def natLe32 (B : List Byte) (i : Nat) : Nat := natLe16 B i + 65536 * natLe16 B (i + 2)

end Sys2Proof.Machine
end

