-- ==== Sys2Proof/Certificates/Slice0/Obligations.lean ====
section
/-! DEFINITION. The statements for the provers. Each docstring says which rule of spec/ it formalises. -/

open Sys2Proof Sys2Proof.Machine

/-- For every buffer and state, CSUM answers a next state in which only the unit result changed, and that is (sum of the bytes at even offsets + 256 * sum of the bytes at odd offsets) mod 65536. (R70) -/
def Obligations.CsumIsTheParityWeightedSum : Prop :=
  ∀ (B : List Byte) (s : State),
    exec (.csum B) s = .next { s with out := some (.word (BitVec.ofNat 16 (evenSum B + 256 * oddSum B))) }

/-- For every buffer, CSUM is the sum modulo 65536 of the words le16(B, 2k), a missing last byte counted as zero. It is clause (a) of R71. (R71) -/
def Obligations.CsumIsTheLittleEndianWordSum : Prop :=
  ∀ B : List Byte,
    csum B = BitVec.ofNat 16 (∑ k ∈ Finset.range ((B.length + 1) / 2), natLe16 B (2 * k))

/-- If two buffers hold the same bytes at even offsets up to order, and the same bytes at odd offsets up to order, CSUM gives the same outcome on both in every state. It is clause (b) of R71. (R71) -/
def Obligations.CsumIsInvariantUnderSameParityPermutation : Prop :=
  ∀ (B B' : List Byte) (s : State),
    (bytesAtParity 0 B).Perm (bytesAtParity 0 B') → (bytesAtParity 1 B).Perm (bytesAtParity 1 B') →
      exec (.csum B) s = exec (.csum B') s

/-- If A has even length, CSUM(A ++ B) = CSUM(A) + CSUM(B) modulo 65536; and CSUM(B ++ zeros) = CSUM(B). They are clauses (c) and (d) of R71. (R71) -/
def Obligations.CsumOfConcatenationAndOfTrailingZeros : Prop :=
  (∀ A B : List Byte, A.length % 2 = 0 → csum (A ++ B) = csum A + csum B) ∧
    (∀ (B : List Byte) (k : Nat), csum (B ++ List.replicate k 0) = csum B)

/-- Replacing the byte x at offset i by y changes CSUM by (y - x) at an even offset and by 256 * (y - x) at an odd one, modulo 65536, and if x and y differ CSUM differs. It is clause (e) of R71. (R71) -/
def Obligations.CsumAfterOneByteChange : Prop :=
  ∀ (B : List Byte) (i : Nat) (x y : Byte), B[i]? = some x →
    csum (B.set i y) + (if i % 2 = 0 then x.setWidth 16 else x.setWidth 16 <<< 8) =
        csum B + (if i % 2 = 0 then y.setWidth 16 else y.setWidth 16 <<< 8) ∧
      (x ≠ y → csum (B.set i y) ≠ csum B)

/-- For every buffer of any length and every state VERIFY answers a next state in which only the unit result changed: true exactly when the buffer has at least 8 bytes and CSUM of the buffer with offsets 2 and 3 zero equals le16(B, 2). (R72) -/
def Obligations.VerifyComparesStoredWithRecomputed : Prop :=
  ∀ (B : List Byte) (s : State), ∃ v : Bool,
    exec (.verify B) s = .next { s with out := some (.verdict v) } ∧
      (v = true ↔ 8 ≤ B.length ∧ (csum ((B.set 2 0).set 3 0)).toNat = natLe16 B 2)

/-- For a buffer of at least 8 bytes VERIFY is true exactly when CSUM of the unmodified buffer is twice the stored field modulo 65536; and for every content of the other bytes exactly one value of the field verifies. They are the equivalent form and consequence (a) of R73. (R73) -/
def Obligations.VerifyEquivalentFormAndUniqueField : Prop :=
  ∀ B : List Byte, 8 ≤ B.length →
    (verify B = true ↔ csum B = 2 * le16 B 2) ∧
      ∃! v : U16, verify ((B.set 2 (lo8 v)).set 3 (hi8 v)) = true

/-- If VERIFY holds of a buffer and one byte, at any offset, the checksum field's offsets among them, is replaced by a different value, VERIFY is false. They are consequences (b) and (c) of R73. (R73) -/
def Obligations.VerifyDetectsEveryByteChange : Prop :=
  ∀ (B : List Byte) (i : Nat) (x y : Byte), verify B = true → B[i]? = some x → x ≠ y →
    verify (B.set i y) = false

/-- With legal parameters BUILD answers a next state in which only the unit result changed: a report R of REPORT_LEN bytes with R[0] = REPORT_ID, R[1] = echo, R[4], R[5] the field (|body| + 4) mod 1024, R[6] = command, R[7] = index, the first REPORT_LEN - 8 body bytes from offset 8, zeros after, R[2], R[3] the checksum of R with offsets 2 and 3 zero; VERIFY holds of R, and a body that fits is found again by PARSE with its length field (|body| + 4) mod 1024. (R84, R85) -/
def Obligations.BuildLaysOutTheReport : Prop :=
  ∀ (echo command index : Byte) (body : List Byte) (s : State), s.cfg.Legal →
    ∃ R : List Byte, exec (.build echo command index body) s = .next { s with out := some (.report R) } ∧
      R.length = s.cfg.reportLen ∧ R[0]? = some s.cfg.reportId ∧ R[1]? = some echo ∧
      R[4]? = some (BitVec.ofNat 8 ((body.length + 4) % 1024)) ∧
      R[5]? = some (BitVec.ofNat 8 ((body.length + 4) % 1024 / 256)) ∧
      R[6]? = some command ∧ R[7]? = some index ∧
      (∀ j, j < body.length → 8 + j < s.cfg.reportLen → R[8 + j]? = body[j]?) ∧
      (∀ j, 8 + body.length ≤ j → j < s.cfg.reportLen → R[j]? = some 0) ∧
      R[2]? = some (BitVec.ofNat 8 (csum ((R.set 2 0).set 3 0)).toNat) ∧
      R[3]? = some (BitVec.ofNat 8 ((csum ((R.set 2 0).set 3 0)).toNat / 256)) ∧
      verify R = true ∧
      parseHeader R = some ⟨s.cfg.reportId, echo, csum ((R.set 2 0).set 3 0), 0,
        BitVec.ofNat 10 (body.length + 4), command, index⟩

/-- With legal parameters: VERIFY of BUILD is true; replacing byte 2 or byte 3 by a different value makes it false; and for REPORT_LEN at most 1027 and a body that fits, PARSE of BUILD has the given echo, command and index and len = |body| + 4. (R89) -/
def Obligations.BuildThenVerifyAndParse : Prop :=
  ∀ (p : Params) (echo command index : Byte) (body : List Byte), p.Legal →
    verify (buildReport p echo command index body) = true ∧
    (∀ (i : Nat) (y : Byte), i = 2 ∨ i = 3 → (buildReport p echo command index body)[i]? ≠ some y →
      verify ((buildReport p echo command index body).set i y) = false) ∧
    (p.reportLen ≤ 1027 → body.length + headerSize ≤ p.reportLen →
      ∃ h, parseHeader (buildReport p echo command index body) = some h ∧ h.echo = echo ∧
        h.command = command ∧ h.index = index ∧ h.len.toNat = body.length + 4)

/-- With legal parameters the request with command c is REPORT_ID, ECHO, the two bytes of cs, 0x04, 0x00, c, 0x00 and zeros up to REPORT_LEN, where cs = (REPORT_ID + 4 + c + 256 * ECHO) mod 65536; with the default codes cs is 0x0028 + (ECHO << 8) for SystemInfo and 0x004B + (ECHO << 8) for ScreenBuffer. (R57) -/
def Obligations.RequestIsTheDocumentedBytes : Prop :=
  ∀ p : Params, p.Legal →
    (∀ c : Byte,
      let cs := (p.reportId.toNat + 4 + c.toNat + 256 * p.echo.toNat) % 65536
      request p c =
        [p.reportId, p.echo, BitVec.ofNat 8 cs, BitVec.ofNat 8 (cs / 256), 0x04, 0x00, c, 0x00] ++
          List.replicate (p.reportLen - 8) 0) ∧
    (p.reportId = 0x22 →
      le16 (request p 0x02) 2 = 0x0028#16 + (p.echo.setWidth 16 <<< 8) ∧
      le16 (request p 0x25) 2 = 0x004B#16 + (p.echo.setWidth 16 <<< 8))

/-- On a buffer of at least 8 bytes PARSE answers a next state in which only the unit result changed: the header with reportId = B[0], echo = B[1], checksum = le16(B, 2), status and len the upper 6 and lower 10 bits of le16(B, 4), command = B[6], index = B[7]. (R83) -/
def Obligations.ParseReadsTheHeaderFields : Prop :=
  ∀ (B : List Byte) (s : State), 8 ≤ B.length →
    exec (.parse B) s = .next { s with out := some (.header
      ⟨B.getD 0 0, B.getD 1 0, BitVec.ofNat 16 (natLe16 B 2), BitVec.ofNat 6 (natLe16 B 4 / 1024),
        BitVec.ofNat 10 (natLe16 B 4 % 1024), B.getD 6 0, B.getD 7 0⟩) }

/-- On a buffer of fewer than 8 bytes PARSE is refused (headerTooShort); no field value is invented. (R82, 93_implementation_defined.md U1) -/
def Obligations.ParseOfAShortBufferIsRefused : Prop :=
  ∀ (B : List Byte) (s : State), B.length < 8 →
    exec (.parse B) s = .refused (.illFormed .headerTooShort)

/-- For n and a buffer of max(n, 0) bytes QUALIFY answers a next state in which only the unit result changed: true exactly when n >= 8, B[0] = REPORT_ID, B[1] is ECHO or 0, B[6] = c and VERIFY holds. Status, length and index play no part. (R86) -/
def Obligations.QualifyIsTheFiveChecks : Prop :=
  ∀ (n : Int) (B : List Byte) (c : Byte) (s : State), B.length = n.toNat → ∃ v : Bool,
    exec (.qualify n B c) s = .next { s with out := some (.verdict v) } ∧
      (v = true ↔ 8 ≤ n ∧ B.getD 0 0 = s.cfg.reportId ∧ (B.getD 1 0 = s.cfg.echo ∨ B.getD 1 0 = 0) ∧
        B.getD 6 0 = c ∧ verify B = true)

/-- For n and a buffer of max(n, 0) bytes SIZEDEC answers a next state in which only the unit result changed: none if n < 12, else (le16(B, 8), le16(B, 10)); the length field is not consulted and zeros pass through. R88 defines SIZEDEC on reports that have passed QUALIFY; that it gives the same result on the others is the model's choice (log 14). (R88) -/
def Obligations.SizedecReadsWidthAndHeight : Prop :=
  ∀ (n : Int) (B : List Byte) (s : State), B.length = n.toNat →
    exec (.sizedec n B) s = .next { s with out := some (.size
      (if n < 12 then none else some (BitVec.ofNat 16 (natLe16 B 8), BitVec.ofNat 16 (natLe16 B 10)))) }

/-- For n >= 8 and a buffer of n bytes CHUNK answers a next state in which only the unit result changed: with len = le16(B, 4) mod 1024, none if len < 8 or len + 4 > n, else the chunk with addr = le32(B, 8), dlen = len - 8 and as data the dlen bytes from offset 12. R96 defines CHUNK on reports for which QUALIFY is true; that it gives the same result on the others is the model's choice (log 14). (R96) -/
def Obligations.ChunkIsMeasuredByTheLengthField : Prop :=
  ∀ (n : Int) (B : List Byte) (s : State), B.length = n.toNat → 8 ≤ n →
    let len := natLe16 B 4 % 1024
    ∃ r : Option Chunk, exec (.chunk n B) s = .next { s with out := some (.chunk r) } ∧
      (len < 8 ∨ n < (len : Int) + 4 → r = none) ∧
      (8 ≤ len → (len : Int) + 4 ≤ n →
        ∃ c, r = some c ∧ c.addr.toNat = natLe32 B 8 ∧ c.dlen = len - 8 ∧ c.data.length = len - 8 ∧
          ∀ j, j < len - 8 → c.data[j]? = B[12 + j]?)

/-- The model's reading (log 13) of the operands' definition: with |B| different from max(n, 0) these operations are refused as countMismatch; RX with n > REPORT_LEN, and a response longer than REPORT_LEN, as reportTooLong; CHUNK below 8 bytes as headerTooShort. (R22, R64, R133, R82) -/
def Obligations.OperandsThatBreakTheirCountAreRefused : Prop :=
  ∀ (n : Int) (B : List Byte) (c : Byte) (t : Nat) (s : State),
    (B.length ≠ n.toNat →
      exec (.qualify n B c) s = .refused (.illFormed .countMismatch) ∧
      exec (.chunk n B) s = .refused (.illFormed .countMismatch) ∧
      exec (.sizedec n B) s = .refused (.illFormed .countMismatch) ∧
      exec (.rx n B t) s = .refused (.illFormed .countMismatch)) ∧
    (B.length = n.toNat → (s.cfg.reportLen : Int) < n →
      exec (.rx n B t) s = .refused (.illFormed .reportTooLong)) ∧
    (B.length = n.toNat → n < 8 → exec (.chunk n B) s = .refused (.illFormed .headerTooShort)) ∧
    (∀ (cs : U16) (st : BitVec 6) (len : BitVec 10) (ix : Byte), s.cfg.reportLen < 8 + B.length →
      exec (.rspSysinfo c cs st len ix B t) s = .refused (.illFormed .reportTooLong) ∧
      exec (.rspScreenbuf c cs st len ix B t) s = .refused (.illFormed .reportTooLong))

/-- If addr + |data| <= WIDTH * HEIGHT * 2, in unbounded naturals, ACCUM answers true in a next state where FB reads data byte i at addr + i and reads as before everywhere else, MAX_END is the maximum of its old value and addr + |data|, and nothing else changed; otherwise it answers false and nothing else changed. (R97, R98) -/
def Obligations.AccumStoresInRangeChunksOnly : Prop :=
  ∀ (addr : U32) (data : List Byte) (s : State),
    (addr.toNat + data.length ≤ s.width.toNat * s.height.toNat * 2 →
      ∃ u, exec (.accum addr data) s = .next u ∧ u.out = some (.verdict true) ∧
        u.maxEnd = max s.maxEnd (addr.toNat + data.length) ∧
        (∀ a, u.fbByte a =
          if addr.toNat ≤ a ∧ a < addr.toNat + data.length then data.getD (a - addr.toNat) 0
          else s.fbByte a) ∧
        u = { s with fb := u.fb, maxEnd := u.maxEnd, out := u.out }) ∧
    (s.width.toNat * s.height.toNat * 2 < addr.toNat + data.length →
      exec (.accum addr data) s = .next { s with out := some (.verdict false) })

/-- For a canonical FB and two in-range chunks, accumulating the first then the second and the second then the first give the same MAX_END; if the byte ranges are disjoint, the same FB. (R99, R39) -/
def Obligations.AccumOrderDoesNotMatterForDisjointChunks : Prop :=
  ∀ (a b : U32) (da db : List Byte) (s s1 s2 r1 r2 : State), s.fb.wf = true →
    a.toNat + da.length ≤ s.expected → b.toNat + db.length ≤ s.expected →
    exec (.accum a da) s = .next s1 → exec (.accum b db) s1 = .next s2 →
    exec (.accum b db) s = .next r1 → exec (.accum a da) r1 = .next r2 →
      s2.maxEnd = r2.maxEnd ∧
      (a.toNat + da.length ≤ b.toNat ∨ b.toNat + db.length ≤ a.toNat → s2.fb = r2.fb)

/-- For a canonical FB, a second ACCUM with the same operands gives the same next state as the first. (R99, R38) -/
def Obligations.AccumOfTheSameChunkTwiceIsOnce : Prop :=
  ∀ (a : U32) (d : List Byte) (s s1 : State), s.fb.wf = true → exec (.accum a d) s = .next s1 →
    exec (.accum a d) s1 = .next s1

/-- In Idle, Complete and TimedOut: with w = 0 or h = 0 only MODE, STATE, RESULT, ELAPSED and the DONE pulse change, to Capture, InvalidDimensions, InvalidDimensions, 0 and InvalidDimensions; otherwise MODE is Capture, FB is kept if the dimensions are the same and else new with no byte written, MAX_END, PKT_COUNT and ELAPSED are 0, T_START = T_LAST = t, TX = BUILD(ECHO, CMD_SCREENBUF, 0, []), TX_VALID = 1, RESULT = None, STATE = Requesting, and nothing else changes but the model's own last timestamp and buffer count. (R112) -/
def Obligations.CapStartStartsACycleOrEndsTheSession : Prop :=
  ∀ (w h : U16) (t : Nat) (s : State), TimeOk s t →
    s.state = .idle ∨ s.state = .complete ∨ s.state = .timedOut →
    (w = 0 ∨ h = 0 →
      exec (.capStart w h t) s = .next
        { s with mode := .capture, state := .invalidDimensions, result := .invalidDimensions, elapsed := 0,
                 done := some .invalidDimensions, tPrev := some t }) ∧
    (w ≠ 0 → h ≠ 0 →
      exec (.capStart w h t) s = .next
        { s with mode := .capture, width := w, height := h,
                 fb := (if w = s.width ∧ h = s.height then s.fb else []),
                 fbGen := (if w = s.width ∧ h = s.height then s.fbGen else s.fbGen + 1),
                 maxEnd := 0, pktCount := 0, elapsed := 0, tStart := t, tLast := t,
                 tx := buildReport s.cfg s.cfg.echo s.cfg.cmdScreenbuf 0 [], txValid := true,
                 result := .none, state := .requesting, tPrev := some t })

/-- In Idle, Complete and TimedOut: MODE is Query, QWIDTH, QHEIGHT, Q_VALID, PKT_COUNT and ELAPSED are 0, T_START = T_LAST = t, TX = BUILD(ECHO, CMD_SYSINFO, 0, []), TX_VALID = 1, RESULT = None, STATE = Requesting; WIDTH, HEIGHT, FB, MAX_END and everything else are unchanged but the model's own last timestamp. (R113) -/
def Obligations.QStartStartsAQuery : Prop :=
  ∀ (t : Nat) (s : State), TimeOk s t →
    s.state = .idle ∨ s.state = .complete ∨ s.state = .timedOut →
    exec (.qStart t) s = .next
      { s with mode := .query, qWidth := 0, qHeight := 0, qValid := false, pktCount := 0, elapsed := 0,
               tStart := t, tLast := t, tx := buildReport s.cfg s.cfg.echo s.cfg.cmdSysinfo 0 [],
               txValid := true, result := .none, state := .requesting, tPrev := some t }

/-- In Requesting: TX_VALID becomes 0; if t - T_START is at most CMD_TIMEOUT_MS STATE is Collecting and nothing else changes; else STATE is TimedOut, RESULT NoData in Capture and QueryNone in Query mode, ELAPSED = t - T_START, with the DONE pulse. (R114) -/
def Obligations.TxOkOpensCollectingOrTimesOut : Prop :=
  ∀ (t : Nat) (s : State), TimeOk s t → s.state = .requesting →
    (t - s.tStart ≤ s.cfg.cmdTimeoutMs →
      exec (.txOk t) s = .next { s with txValid := false, state := .collecting, tPrev := some t }) ∧
    (s.cfg.cmdTimeoutMs < t - s.tStart →
      exec (.txOk t) s = .next
        { s with txValid := false, state := .timedOut,
                 result := (if s.mode = .capture then .noData else .queryNone), elapsed := t - s.tStart,
                 done := some (if s.mode = .capture then .noData else .queryNone), tPrev := some t })

/-- In Requesting, TX_FAIL ends the cycle: STATE = RESULT = DeviceError in Capture mode, STATE = TimedOut and RESULT = QueryNone in Query mode; ELAPSED = t - T_START, TX_VALID = 0, the DONE pulse; nothing else changes. (R115) -/
def Obligations.TxFailEndsTheCycle : Prop :=
  ∀ (t : Nat) (s : State), TimeOk s t → s.state = .requesting →
    (s.mode = .capture →
      exec (.txFail t) s = .next
        { s with state := .deviceError, result := .deviceError, elapsed := t - s.tStart, txValid := false,
                 done := some .deviceError, tPrev := some t }) ∧
    (s.mode = .query →
      exec (.txFail t) s = .next
        { s with state := .timedOut, result := .queryNone, elapsed := t - s.tStart, txValid := false,
                 done := some .queryNone, tPrev := some t })

/-- In Collecting, in either mode, RX_FATAL gives STATE = RESULT = DeviceError, ELAPSED = t - T_START, TX_VALID = 0 and the DONE pulse; nothing else changes. (R129) -/
def Obligations.RxFatalIsDeviceError : Prop :=
  ∀ (t : Nat) (s : State), TimeOk s t → s.state = .collecting →
    exec (.rxFatal t) s = .next
      { s with state := .deviceError, result := .deviceError, elapsed := t - s.tStart, txValid := false,
               done := some .deviceError, tPrev := some t }

/-- In Collecting and Capture mode, for a read of n <= REPORT_LEN with max(n, 0) bytes: PKT_COUNT rises by one if the report qualifies; if its chunk is extracted and in range, FB reads its data at its address and as before elsewhere, MAX_END is raised to its end and T_LAST is t; then, in this order, coverage reached gives Complete, a passed deadline gives TimedOut with PartialFrame or NoData by coverage, each with ELAPSED, TX_VALID 0 and the DONE pulse, else the cycle goes on. Nothing else changes. (R116) -/
def Obligations.RxInCaptureModeUsesThePacketThenDecides : Prop :=
  ∀ (n : Int) (B : List Byte) (t : Nat) (s : State),
    s.state = .collecting → s.mode = .capture → B.length = n.toNat → n ≤ (s.cfg.reportLen : Int) →
    TimeOk s t →
    let E := s.width.toNat * s.height.toNat * 2
    let q : Bool := qualify s.cfg n B s.cfg.cmdScreenbuf
    let accepted : Option Chunk :=
      if q then (extractChunk n B).filter (fun c => decide (c.addr.toNat + c.dlen ≤ E)) else none
    ∃ u, exec (.rx n B t) s = .next u ∧
      u.pktCount = (if q then s.pktCount + 1 else s.pktCount) ∧
      (accepted = none → u.fb = s.fb ∧ u.maxEnd = s.maxEnd ∧ u.tLast = s.tLast) ∧
      (∀ c, accepted = some c →
        (∀ a, u.fbByte a =
          if c.addr.toNat ≤ a ∧ a < c.addr.toNat + c.dlen then c.data.getD (a - c.addr.toNat) 0
          else s.fbByte a) ∧
        u.maxEnd = max s.maxEnd (c.addr.toNat + c.dlen) ∧ u.tLast = t) ∧
      (E ≤ u.maxEnd → u.state = .complete ∧ u.result = .complete) ∧
      (u.maxEnd < E → s.cfg.cmdTimeoutMs < t - s.tStart →
        u.state = .timedOut ∧ u.result = (if 0 < u.maxEnd then .partialFrame else .noData)) ∧
      (E ≤ u.maxEnd ∨ s.cfg.cmdTimeoutMs < t - s.tStart →
        u.elapsed = t - s.tStart ∧ u.txValid = false ∧ u.done = some u.result) ∧
      (u.maxEnd < E → t - s.tStart ≤ s.cfg.cmdTimeoutMs →
        u.state = .collecting ∧ u.result = s.result ∧ u.elapsed = s.elapsed ∧ u.txValid = s.txValid ∧
          u.done = s.done) ∧
      u = { s with state := u.state, result := u.result, fb := u.fb, maxEnd := u.maxEnd,
                   pktCount := u.pktCount, tLast := u.tLast, elapsed := u.elapsed, txValid := u.txValid,
                   done := u.done, tPrev := some t }

/-- In Collecting and Query mode, for a read of n <= REPORT_LEN with max(n, 0) bytes: PKT_COUNT rises by one if the report qualifies; if it qualifies and n >= 12, QWIDTH = le16(B, 8), QHEIGHT = le16(B, 10), Q_VALID = 1 and the query ends Complete, QueryOk; else a passed deadline ends it TimedOut, QueryNone; else nothing but PKT_COUNT changes. FB, WIDTH, HEIGHT and MAX_END never change. (R128) -/
def Obligations.RxInQueryModeTakesTheFirstAnswer : Prop :=
  ∀ (n : Int) (B : List Byte) (t : Nat) (s : State),
    s.state = .collecting → s.mode = .query → B.length = n.toNat → n ≤ (s.cfg.reportLen : Int) →
    TimeOk s t →
    let q : Bool := qualify s.cfg n B s.cfg.cmdSysinfo
    let k := if q then s.pktCount + 1 else s.pktCount
    (q = true → 12 ≤ n →
      exec (.rx n B t) s = .next
        { s with pktCount := k, qWidth := BitVec.ofNat 16 (natLe16 B 8),
                 qHeight := BitVec.ofNat 16 (natLe16 B 10), qValid := true, state := .complete,
                 result := .queryOk, elapsed := t - s.tStart, txValid := false, done := some .queryOk,
                 tPrev := some t }) ∧
    (q = false ∨ n < 12 → s.cfg.cmdTimeoutMs < t - s.tStart →
      exec (.rx n B t) s = .next
        { s with pktCount := k, state := .timedOut, result := .queryNone, elapsed := t - s.tStart,
                 txValid := false, done := some .queryNone, tPrev := some t }) ∧
    (q = false ∨ n < 12 → t - s.tStart ≤ s.cfg.cmdTimeoutMs →
      exec (.rx n B t) s = .next { s with pktCount := k, tPrev := some t })

/-- For n <= 0, in every state, RX n, [] has the outcome of RX 0, []. In Collecting, in Query mode or with coverage not reached: before the deadline nothing changes but the model's last timestamp; past it the cycle ends TimedOut with PartialFrame or NoData in Capture mode, QueryNone in Query mode. In Collecting and Capture mode with coverage reached (a state in which no cycle waits, R123) it ends the cycle Complete. Nothing is counted or copied. (R117) -/
def Obligations.EmptyReadIsNoDataYet : Prop :=
  ∀ (n : Int) (t : Nat) (s : State), n ≤ 0 →
    exec (.rx n [] t) s = exec (.rx 0 [] t) s ∧
    (s.state = .collecting → (s.mode = .capture → s.maxEnd < s.expected) → TimeOk s t →
      (t - s.tStart ≤ s.cfg.cmdTimeoutMs → exec (.rx n [] t) s = .next { s with tPrev := some t }) ∧
      (s.cfg.cmdTimeoutMs < t - s.tStart →
        let r : CycleResult :=
          if s.mode = .query then .queryNone else if 0 < s.maxEnd then .partialFrame else .noData
        exec (.rx n [] t) s = .next
          { s with state := .timedOut, result := r, elapsed := t - s.tStart, txValid := false,
                   done := some r, tPrev := some t })) ∧
    (s.state = .collecting → s.mode = .capture → s.expected ≤ s.maxEnd → TimeOk s t →
      exec (.rx n [] t) s = .next
        { s with state := .complete, result := .complete, elapsed := t - s.tStart, txValid := false,
                 done := some .complete, tPrev := some t })

/-- Start events while Requesting, Collecting, DeviceError or InvalidDimensions, TX_OK and TX_FAIL outside Requesting, RX and RX_FATAL outside Collecting answer a next state that differs only in the model's own last timestamp; a step on a frame with op code 0xE or 0xF takes it from the input port with no DONE pulse and changes nothing else but that timestamp. (R111) -/
def Obligations.EventsWithoutARowChangeNothing : Prop :=
  ∀ (t : Nat) (s : State), TimeOk s t →
    (s.state = .requesting ∨ s.state = .collecting ∨ s.state = .deviceError ∨ s.state = .invalidDimensions →
      (∀ w h, exec (.capStart w h t) s = .next { s with tPrev := some t }) ∧
      exec (.qStart t) s = .next { s with tPrev := some t }) ∧
    (s.state ≠ .requesting →
      exec (.txOk t) s = .next { s with tPrev := some t } ∧
      exec (.txFail t) s = .next { s with tPrev := some t }) ∧
    (s.state ≠ .collecting →
      (∀ n B, WellFormed s.cfg (.rx n B t) → exec (.rx n B t) s = .next { s with tPrev := some t }) ∧
      exec (.rxFatal t) s = .next { s with tPrev := some t }) ∧
    (∀ (code : BitVec 4) (a : OpArgs) (rest : List Input), code = 0xE ∨ code = 0xF → a.t = t →
      s.port = .frame (.op code a) :: rest →
      step s = .next { s with port := rest, done := none, out := none, tPrev := some t })

/-- If the last event since reset had timestamp t0 and t < t0, each operation that carries a timestamp (the six events, and the two responses), with operands it is defined on, is refused as timestampDecreases; if there was no event since reset, or t0 <= t, each answers a next state whose last timestamp is t. (R25) -/
def Obligations.DecreasingTimestampsAreRefused : Prop :=
  ∀ (t : Nat) (s : State) (i : Instr), eventTime i = some t → WellFormed s.cfg i →
    (∀ t0, s.tPrev = some t0 → t < t0 → exec i s = .refused .timestampDecreases) ∧
    (s.tPrev = none ∨ (∃ t0, s.tPrev = some t0 ∧ t0 ≤ t) → ∃ u, exec i s = .next u ∧ u.tPrev = some t)

/-- The model's choice (log 8) of what a request row does: with legal parameters the operation answers a next state in which only the unit result changed: the request BUILD(ECHO, c, 0, []) of its command c, and true exactly when the report with the row's header fields, the given echo and checksum and the given body is that request, byte for byte. (R57, R61, R65) -/
def Obligations.RequestRowsGiveTheRequest : Prop :=
  ∀ (echo : Byte) (cs : U16) (body : List Byte) (s : State), s.cfg.Legal →
    (∃ v : Bool, exec (.reqSysinfo echo cs body) s =
        .next { s with out := some (.request (buildReport s.cfg s.cfg.echo s.cfg.cmdSysinfo 0 []) v) } ∧
      (v = true ↔ [s.cfg.reportId, echo, lo8 cs, hi8 cs, 0x04, 0x00, s.cfg.cmdSysinfo, 0x00] ++ body =
        buildReport s.cfg s.cfg.echo s.cfg.cmdSysinfo 0 [])) ∧
    (∃ v : Bool, exec (.reqScreenbuf echo cs body) s =
        .next { s with out := some (.request (buildReport s.cfg s.cfg.echo s.cfg.cmdScreenbuf 0 []) v) } ∧
      (v = true ↔ [s.cfg.reportId, echo, lo8 cs, hi8 cs, 0x04, 0x00, s.cfg.cmdScreenbuf, 0x00] ++ body =
        buildReport s.cfg s.cfg.echo s.cfg.cmdScreenbuf 0 []))

/-- For a response of at most REPORT_LEN bytes at a time that does not decrease, each response row answers a next state, the one RX answers on the report's bytes and their count. That a response row is the RX event that carries the report is the model's reading (log 9, DEDUCED). (R61, R116, R128) -/
def Obligations.ResponseRowsAreTheReadThatCarriesThem : Prop :=
  ∀ (e : Byte) (cs : U16) (st : BitVec 6) (len : BitVec 10) (ix : Byte) (body : List Byte) (t : Nat)
    (s : State), 8 + body.length ≤ s.cfg.reportLen → TimeOk s t →
    let f := st.toNat * 1024 + len.toNat
    let bytes := fun c : Byte =>
      [s.cfg.reportId, e, lo8 cs, hi8 cs, BitVec.ofNat 8 f, BitVec.ofNat 8 (f / 256), c, ix] ++ body
    (∃ u, exec (.rspSysinfo e cs st len ix body t) s = .next u ∧
      exec (.rx ((8 + body.length : Nat) : Int) (bytes s.cfg.cmdSysinfo) t) s = .next u) ∧
    (∃ u, exec (.rspScreenbuf e cs st len ix body t) s = .next u ∧
      exec (.rx ((8 + body.length : Nat) : Int) (bytes s.cfg.cmdScreenbuf) t) s = .next u)

/-- In Collecting and Query mode a SystemInfo response of at most REPORT_LEN bytes whose echo is ECHO or 0, whose checksum field is CSUM of the report with the field zero, and whose body has at least 4 bytes, ends the query Complete, QueryOk with QWIDTH, QHEIGHT the two little-endian u16 of the body and PKT_COUNT one more, whatever its status, length and index. (R58, R62, R87, R128) -/
def Obligations.SysinfoResponseAnswersTheQuery : Prop :=
  ∀ (e : Byte) (cs : U16) (st : BitVec 6) (len : BitVec 10) (ix : Byte) (body : List Byte) (t : Nat)
    (s : State), s.state = .collecting → s.mode = .query → TimeOk s t →
    8 + body.length ≤ s.cfg.reportLen → 4 ≤ body.length → e = s.cfg.echo ∨ e = 0 →
    cs = csum (packHeader ⟨s.cfg.reportId, e, 0, st, len, s.cfg.cmdSysinfo, ix⟩ ++ body) →
    exec (.rspSysinfo e cs st len ix body t) s = .next
      { s with pktCount := s.pktCount + 1, qWidth := BitVec.ofNat 16 (natLe16 body 0),
               qHeight := BitVec.ofNat 16 (natLe16 body 2), qValid := true, state := .complete,
               result := .queryOk, elapsed := t - s.tStart, txValid := false, done := some .queryOk,
               tPrev := some t }

/-- In Collecting and Capture mode a ScreenBuffer response of at most REPORT_LEN bytes whose echo is ECHO or 0, whose checksum is right, whose length field is 8 + |data|, whose body is the address, the data and any padding, and whose chunk is in range, answers a next state with PKT_COUNT one more, T_LAST = t, MAX_END raised to the chunk's end, FB reading the data at the address and as before elsewhere; WIDTH, HEIGHT, TX, MODE, the query registers, T_START and the parameters are unchanged; STATE is Complete, RESULT Complete and ELAPSED t - T_START if coverage is now reached. (R59, R62, R87, R116) -/
def Obligations.ScreenbufResponseStoresItsChunk : Prop :=
  ∀ (e : Byte) (st : BitVec 6) (ix : Byte) (addr : U32) (data pad : List Byte) (t : Nat) (s : State),
    s.state = .collecting → s.mode = .capture → TimeOk s t →
    data.length + 8 < 1024 → 12 + data.length + pad.length ≤ s.cfg.reportLen → e = s.cfg.echo ∨ e = 0 →
    addr.toNat + data.length ≤ s.expected →
    let body := le32bytes addr ++ (data ++ pad)
    let len := BitVec.ofNat 10 (data.length + 8)
    let cs := csum (packHeader ⟨s.cfg.reportId, e, 0, st, len, s.cfg.cmdScreenbuf, ix⟩ ++ body)
    ∃ u, exec (.rspScreenbuf e cs st len ix body t) s = .next u ∧
      u.pktCount = s.pktCount + 1 ∧ u.tLast = t ∧ u.maxEnd = max s.maxEnd (addr.toNat + data.length) ∧
      (∀ a, u.fbByte a =
        if addr.toNat ≤ a ∧ a < addr.toNat + data.length then data.getD (a - addr.toNat) 0
        else s.fbByte a) ∧
      (s.expected ≤ u.maxEnd →
        u.state = .complete ∧ u.result = .complete ∧ u.elapsed = t - s.tStart ∧ u.done = some .complete) ∧
      u = { s with state := u.state, result := u.result, fb := u.fb, maxEnd := u.maxEnd,
                   pktCount := u.pktCount, tLast := u.tLast, elapsed := u.elapsed, txValid := u.txValid,
                   done := u.done, tPrev := some t }

/-- For every operation and all parameters whose two command codes differ, decode of encode is the operation: the op-select codes are distinct, and no bit of a report's header (echo, checksum, status, length, index) or body is dropped, also where a request and a response share their header. (R50, R51, R52, R60, R61) -/
def Obligations.DecodeOfEncodeIsTheInstruction : Prop :=
  ∀ (p : Params) (i : Instr), p.cmdSysinfo ≠ p.cmdScreenbuf → decode p (encode p i) = .ok i

/-- An outbound report that decodes to an operation is the frame of that operation; an inbound report decodes either to a response whose frame it is, or to RX with its byte count and exactly its bytes. An outbound report decodes to the error noReportKind exactly when it has not the header bytes of either request: that the model stops there is its choice (log 7). (R51, R57, R61, R62) -/
def Obligations.WireFramesAreDecodedWithoutLoss : Prop :=
  ∀ (p : Params) (B : List Byte) (t : Nat) (i : Instr),
    (decode p (.wireOut B) = .ok i → encode p i = .wireOut B) ∧
    (decode p (.wireIn B t) = .ok i → encode p i = .wireIn B t ∨ i = .rx (B.length : Int) B t) ∧
    (decode p (.wireOut B) = .error .noReportKind ↔ ¬ requestShape p B)

/-- Op-select codes 0x0, 0x7, 0x8, 0xC with operands, the unassigned 0xE, and the four wire rows' match words (with the default parameters) decode as the tables say. (R60, R61, R63) -/
def Obligations.SampleWordsDecode : Prop :=
  decode Params.standard (.op 0x0 { buf := [0x12] }) = .ok (.csum [0x12]) ∧
  decode Params.standard (.op 0x7 { addr := 50, buf := [0x22] }) = .ok (.accum 50 [0x22]) ∧
  decode Params.standard (.op 0x8 { w := 10, h := 5, t := 7 }) = .ok (.capStart 10 5 7) ∧
  decode Params.standard (.op 0xC { n := -1, t := 3 }) = .ok (.rx (-1) [] 3) ∧
  decode Params.standard (.op 0xE {}) = .error (.unassignedOp 0xE) ∧
  decode Params.standard (.wireOut [0x22, 0, 0x28, 0, 0x04, 0, 0x02, 0]) = .ok (.reqSysinfo 0 0x28 []) ∧
  decode Params.standard (.wireOut [0x22, 0, 0x4B, 0, 0x04, 0, 0x25, 0]) = .ok (.reqScreenbuf 0 0x4B []) ∧
  decode Params.standard (.wireIn [0x22, 0x5A, 0x85, 0xA0, 0x0C, 0x0C, 0x25, 7, 9] 4) =
    .ok (.rspScreenbuf 0x5A 0xA085 3 12 7 [9] 4) ∧
  decode Params.standard (.wireIn [0x22, 0x5A, 0x5C, 0x5C, 0x08, 0, 0x02, 0, 0x40] 4) =
    .ok (.rspSysinfo 0x5A 0x5C5C 0 8 0 [0x40] 4)

/-- When the oldest input is a frame that decodes, under the configured parameters, to the operation i, the step is exec of i at the state with that input taken and the pulses of the last step gone. With no input the step only clears the pulses. That inputs stand in a list and an empty list is such a step (log 5), that the unit result is gone when a step begins (log 10) and that the DONE pulse is (log 11) are the model's choices. (R6, R24, R60) -/
def Obligations.AStepRunsTheDecodedInstruction : Prop :=
  ∀ (s : State),
    (∀ (f : Frame) (rest : List Input) (i : Instr), s.port = .frame f :: rest → decode s.cfg f = .ok i →
      step s = exec i { s with port := rest, done := none, out := none }) ∧
    (s.port = [] → step s = .next { s with done := none, out := none })

/-- For every operation in every state the outcome is a next state, or the refusal timestampDecreases, or the refusal illFormed: no report, however malformed, and no unit call traps. (R62, R141, R153, R164) -/
def Obligations.NoOperationFaults : Prop :=
  ∀ (i : Instr) (s : State),
    (∃ u, exec i s = .next u) ∨ exec i s = .refused .timestampDecreases ∨
      (∃ why, exec i s = .refused (.illFormed why) ∧ i.defect s.cfg = some why)

/-- For every operation whose operands meet its definition, in every state where the timestamp it carries (if it is an event) is not below the last one, exec answers a next state with the parameters and the input port unchanged and the count of frame buffers not lowered. (R20, R28, R60, R153) -/
def Obligations.WellFormedOperationsComplete : Prop :=
  ∀ (i : Instr) (s : State), WellFormed s.cfg i → (∀ t, eventTime i = some t → TimeOk s t) →
    ∃ u, exec i s = .next u ∧ u.cfg = s.cfg ∧ u.port = s.port ∧ s.fbGen ≤ u.fbGen

/-- If an operation answers a next state: MODE, TX and T_START change only by a start event; WIDTH, HEIGHT and the buffer's number only by CAP_START; QWIDTH, QHEIGHT, Q_VALID only by Q_START or a read; FB and MAX_END only by ACCUM, CAP_START or a read; PKT_COUNT and T_LAST only by a start event or a read; STATE, RESULT, ELAPSED and TX_VALID only by an event; the parameters never. (R12, R14, R18, R20, R28, R30) -/
def Obligations.EachRegisterHasItsWriters : Prop :=
  ∀ (i : Instr) (s u : State), exec i s = .next u →
    u.cfg = s.cfg ∧
    (startEvent i = false → u.mode = s.mode ∧ u.tx = s.tx ∧ u.tStart = s.tStart) ∧
    ((∀ w h t, i ≠ .capStart w h t) → u.width = s.width ∧ u.height = s.height ∧ u.fbGen = s.fbGen) ∧
    ((∀ t, i ≠ .qStart t) → readEvent i = false →
      u.qWidth = s.qWidth ∧ u.qHeight = s.qHeight ∧ u.qValid = s.qValid) ∧
    ((∀ w h t, i ≠ .capStart w h t) → (∀ a d, i ≠ .accum a d) → readEvent i = false →
      u.fb = s.fb ∧ u.maxEnd = s.maxEnd) ∧
    (startEvent i = false → readEvent i = false → u.pktCount = s.pktCount ∧ u.tLast = s.tLast) ∧
    (sequencerEvent i = false →
      u.state = s.state ∧ u.result = s.result ∧ u.elapsed = s.elapsed ∧ u.txValid = s.txValid)

/-- If a step, a reset among them, answers a next state: when STATE changed to a terminal state the DONE pulse carries the new RESULT; and when a DONE pulse stands, STATE changed in this step, is terminal, and the pulse carries RESULT; so a reset step, which enters Idle, gives none. How long the pulse stands is the model's reading (log 11). (R24, R125, R147) -/
def Obligations.DonePulseMarksEntryOfATerminalState : Prop :=
  ∀ s u : State, step s = .next u →
    (u.state ≠ s.state → u.state.terminal = true → u.done = some u.result) ∧
    (∀ r, u.done = some r → u.state ≠ s.state ∧ u.state.terminal = true ∧ r = u.result)

/-- If STATE is DeviceError or InvalidDimensions and a step answers a next state, then the input was reset, or STATE, MODE, RESULT, WIDTH, HEIGHT, PKT_COUNT, T_START, T_LAST, ELAPSED, the query registers, TX and TX_VALID are unchanged, and FB and MAX_END too unless ACCUM was called as an operation of its own: that exception rests on log 15, the model's reading that ACCUM has no condition on STATE. (R130, R152) -/
def Obligations.StickyStatesAreLeftByResetOnly : Prop :=
  ∀ s u : State, s.state.sticky = true → step s = .next u →
    (∃ p lost rest, s.port = .reset p lost :: rest) ∨
    (u.state = s.state ∧ u.mode = s.mode ∧ u.result = s.result ∧ u.width = s.width ∧
      u.height = s.height ∧ u.pktCount = s.pktCount ∧ u.tStart = s.tStart ∧ u.tLast = s.tLast ∧
      u.elapsed = s.elapsed ∧ u.qWidth = s.qWidth ∧ u.qHeight = s.qHeight ∧ u.qValid = s.qValid ∧
      u.tx = s.tx ∧ u.txValid = s.txValid ∧
      ((u.fb = s.fb ∧ u.maxEnd = s.maxEnd) ∨
        ∃ f rest a d, s.port = .frame f :: rest ∧ decode s.cfg f = .ok (.accum a d)))

/-- In every state, when the oldest input is reset with legal parameters, the step answers a next state with STATE Idle, MODE Capture, RESULT None, WIDTH, HEIGHT, MAX_END, PKT_COUNT, T_START, T_LAST, ELAPSED, QWIDTH, QHEIGHT, Q_VALID, TX_VALID all 0, FB empty, TX some REPORT_LEN bytes, and the configured parameters; and no other input leaves DeviceError or InvalidDimensions. (R27) -/
def Obligations.ResetGivesTheResetState : Prop :=
  ∀ s : State,
    (∀ (p : Params) (lost : List Frame) (rest : List Input), s.port = .reset p lost :: rest → p.Legal →
      ∃ u, step s = .next u ∧ u.state = .idle ∧ u.mode = .capture ∧ u.result = .none ∧ u.width = 0 ∧
        u.height = 0 ∧ u.fb = [] ∧ u.expected = 0 ∧ u.maxEnd = 0 ∧ u.pktCount = 0 ∧ u.tStart = 0 ∧
        u.tLast = 0 ∧ u.elapsed = 0 ∧ u.qWidth = 0 ∧ u.qHeight = 0 ∧ u.qValid = false ∧
        u.txValid = false ∧ u.tx.length = p.reportLen ∧ u.cfg = p ∧ u.port = rest ∧ u.tPrev = none) ∧
    (∀ u, s.state = .deviceError ∨ s.state = .invalidDimensions → step s = .next u → u.state ≠ s.state →
      ∃ p lost rest, s.port = .reset p lost :: rest)

/-- State.reset has STATE Idle, MODE Capture, RESULT None, all counters, dimensions, times and query registers 0, FB empty, TX_VALID 0, no DONE pulse and no event yet, and the source's default parameters. (TX's bytes and ECHO are the model's choice, logs 3 and 2, and nothing is said of them.) (R3, R20, R27) -/
def Obligations.ResetStateValues : Prop :=
  State.reset.state = .idle ∧ State.reset.mode = .capture ∧ State.reset.result = .none ∧
  State.reset.width = 0 ∧ State.reset.height = 0 ∧ State.reset.fb = [] ∧ State.reset.maxEnd = 0 ∧
  State.reset.pktCount = 0 ∧ State.reset.tStart = 0 ∧ State.reset.tLast = 0 ∧ State.reset.elapsed = 0 ∧
  State.reset.qWidth = 0 ∧ State.reset.qHeight = 0 ∧ State.reset.qValid = false ∧
  State.reset.txValid = false ∧ State.reset.done = none ∧ State.reset.tPrev = none ∧
  State.reset.cfg.reportId = 0x22 ∧ State.reset.cfg.reportLen = 1024 ∧
  State.reset.cfg.cmdSysinfo = 0x02 ∧ State.reset.cfg.cmdScreenbuf = 0x25 ∧
  State.reset.cfg.readTimeoutMs = 50 ∧ State.reset.cfg.cmdTimeoutMs = 1500 ∧
  State.reset.cfg.idleBreakMs = 10

/-- For every legal configuration the reset state meets the buffer invariant and the control invariant, and so does State.reset. (R4, R15, R27) -/
def Obligations.ResetStateMeetsTheInvariants : Prop :=
  (∀ p : Params, p.Legal → (State.resetWith p).BufferInv ∧ (State.resetWith p).ControlInv) ∧
    State.reset.BufferInv ∧ State.reset.ControlInv

/-- From every state that meets the buffer invariant, reachable or not, every step that answers a next state gives one that meets it: the parameters are legal, FB is in canonical form with no byte at or past WIDTH * HEIGHT * 2, MAX_END <= EXPECTED, TX has REPORT_LEN bytes, and RESULT = Complete means MAX_END = EXPECTED. (R15, R22, R30, R99, R124) -/
def Obligations.EveryStepKeepsTheBufferInvariant : Prop :=
  ∀ s u : State, s.BufferInv → step s = .next u → u.BufferInv

/-- From every state that meets the control invariant, reachable or not, every step that answers a next state gives one that meets it. (R11, R12, R13, R17, R18, R110, R140) -/
def Obligations.EveryStepKeepsTheControlInvariant : Prop :=
  ∀ s u : State, s.ControlInv → step s = .next u → u.ControlInv

/-- If MAX_END < EXPECTED whenever a capture cycle runs, the same holds after every operation but ACCUM called on its own; and then no read finds the idle-break condition true when it begins. The exception rests on log 15, the model's reading that ACCUM on its own runs in every STATE and ends no cycle. (R119, R123) -/
def Obligations.CoverageEndsACaptureInItsOwnStep : Prop :=
  (∀ (i : Instr) (s u : State), (∀ a d, i ≠ .accum a d) → s.Uncovered → exec i s = .next u → u.Uncovered) ∧
    (∀ (s : State) (n : Int) (t : Nat), s.Uncovered → s.state = .collecting → s.mode = .capture →
      idleBreak s n t = false)

/-- From a state with MAX_END <= EXPECTED in Collecting and Capture mode, if a read ends the cycle then ELAPSED = t - T_START and: RESULT = Complete with MAX_END = EXPECTED, or PartialFrame with 0 < MAX_END < EXPECTED, or NoData with MAX_END = 0. (R124, R126) -/
def Obligations.AFinishedCaptureHasItsStatistics : Prop :=
  ∀ (n : Int) (B : List Byte) (t : Nat) (s u : State), s.BufferInv → s.state = .collecting →
    s.mode = .capture → exec (.rx n B t) s = .next u → u.state ≠ .collecting →
    u.elapsed = t - s.tStart ∧
      ((u.result = .complete ∧ u.maxEnd = u.expected) ∨
        (u.result = .partialFrame ∧ 0 < u.maxEnd ∧ u.maxEnd < u.expected) ∨
        (u.result = .noData ∧ u.maxEnd = 0))

/-- With t - T_START > CMD_TIMEOUT_MS: in Collecting every read, in Requesting TX_OK, answers a next state whose STATE is Complete or TimedOut with TX_VALID = 0. (R114, R121, R128, R133) -/
def Obligations.TheDeadlineEndsEveryCycle : Prop :=
  ∀ (t : Nat) (s : State), TimeOk s t → s.cfg.cmdTimeoutMs < t - s.tStart →
    (s.state = .requesting → ∃ u, exec (.txOk t) s = .next u ∧ u.state = .timedOut ∧ u.txValid = false) ∧
    (∀ n B, s.state = .collecting → WellFormed s.cfg (.rx n B t) →
      ∃ u, exec (.rx n B t) s = .next u ∧ (u.state = .complete ∨ u.state = .timedOut) ∧ u.txValid = false)

/-- If an operation answers a next state and the byte of FB at offset a reads differently after it, then the operation was CAP_START with other dimensions, or ACCUM whose operands, in range, cover a, or a read in Collecting and Capture mode whose own report (RX's n and B, or the bytes of the response and their count) qualifies and carries a chunk that, in range, covers a. (R30, R32, R38) -/
def Obligations.FrameSurvivesUntilOverwrittenOrReplaced : Prop :=
  ∀ (i : Instr) (s u : State) (a : Nat), exec i s = .next u → u.fbByte a ≠ s.fbByte a →
    (∃ w h t, i = .capStart w h t ∧ ¬ (w = s.width ∧ h = s.height)) ∨
    (∃ addr data, i = .accum addr data ∧ addr.toNat ≤ a ∧ a < addr.toNat + data.length ∧
      addr.toNat + data.length ≤ s.expected) ∨
    (s.state = .collecting ∧ s.mode = .capture ∧
      ∃ (n : Int) (B : List Byte) (c : Chunk), readReport s.cfg i = some (n, B) ∧
        qualify s.cfg n B s.cfg.cmdScreenbuf = true ∧ extractChunk n B = some c ∧ c.addr.toNat ≤ a ∧ a < c.addr.toNat + c.data.length ∧
        c.addr.toNat + c.data.length ≤ s.expected)

/-- When the oldest input is the host's read of FB at an offset: with no cycle running and the offset below WIDTH * HEIGHT * 2 the step puts the byte there on the result port and changes nothing else but taking the input; while Requesting or Collecting it is refused, as are reads of MAX_END, PKT_COUNT and ELAPSED (registers 5, 6, 9). (R166) -/
def Obligations.HostReadsTheFrameOnlyAtRest : Prop :=
  ∀ (s : State) (rest : List Input),
    (∀ a, s.port = .readFb a :: rest →
      (s.state.running = false → a < s.width.toNat * s.height.toNat * 2 →
        step s = .next { s with port := rest, done := none, out := some (.fbByte (s.fbByte a)) }) ∧
      (s.state = .requesting ∨ s.state = .collecting → step s = .refused .readWhileRunning)) ∧
    (∀ k, k = 5 ∨ k = 6 ∨ k = 9 → s.port = .readRegister k :: rest →
      (s.state.running = false →
        step s = .next { s with port := rest, done := none, out := some (.register
          (if k = 5 then s.maxEnd else if k = 6 then s.pktCount else s.elapsed)) }) ∧
      (s.state = .requesting ∨ s.state = .collecting → step s = .refused .readWhileRunning))

/-- In every state the host's read of register 0, 1, 2 puts the code of STATE (0 Idle to 6 InvalidDimensions), MODE (0 Capture, 1 Query) and RESULT (0 None to 7 QueryNone) on the result port; registers 3, 4, 7, 10, 11, 12, 13 read as WIDTH, HEIGHT, T_START, QWIDTH, QHEIGHT, Q_VALID, TX_VALID and 16 to 24 as the parameters. (R11, R12, R13, R20, R24) -/
def Obligations.RegisterPortGivesTheCodes : Prop :=
  ∀ (s : State) (rest : List Input) (k v : Nat), s.port = .readRegister k :: rest →
    (k = 0 ∧ v = (match s.state with
        | .idle => 0 | .requesting => 1 | .collecting => 2 | .complete => 3 | .timedOut => 4
        | .deviceError => 5 | .invalidDimensions => 6)) ∨
    (k = 1 ∧ v = (match s.mode with | .capture => 0 | .query => 1)) ∨
    (k = 2 ∧ v = (match s.result with
        | .none => 0 | .complete => 1 | .partialFrame => 2 | .noData => 3 | .deviceError => 4
        | .invalidDimensions => 5 | .queryOk => 6 | .queryNone => 7)) ∨
    (k = 3 ∧ v = s.width.toNat) ∨ (k = 4 ∧ v = s.height.toNat) ∨ (k = 7 ∧ v = s.tStart) ∨
    (k = 13 ∧ v = s.txValid.toNat) ∨
    (k = 10 ∧ v = s.qWidth.toNat) ∨ (k = 11 ∧ v = s.qHeight.toNat) ∨ (k = 12 ∧ v = s.qValid.toNat) ∨
    (k = 16 ∧ v = s.cfg.reportId.toNat) ∨ (k = 17 ∧ v = s.cfg.reportLen) ∨ (k = 18 ∧ v = 8) ∨
    (k = 19 ∧ v = s.cfg.echo.toNat) ∨ (k = 20 ∧ v = s.cfg.cmdSysinfo.toNat) ∨
    (k = 21 ∧ v = s.cfg.cmdScreenbuf.toNat) ∨ (k = 22 ∧ v = s.cfg.readTimeoutMs) ∨
    (k = 23 ∧ v = s.cfg.cmdTimeoutMs) ∨ (k = 24 ∧ v = s.cfg.idleBreakMs) →
    step s = .next { s with port := rest, done := none, out := some (.register v) }

/-- From a state that meets the control invariant with TX_VALID = 1, the transport's read of TX puts the request BUILD(ECHO, c, 0, []) on the port, c being CMD_SCREENBUF in Capture and CMD_SYSINFO in Query mode, and changes nothing else but taking the input; with TX_VALID = 0 the read is refused, which is the model's choice (log 21). (R24, R43, R131) -/
def Obligations.TransportReadsTheStandingRequest : Prop :=
  ∀ (s : State) (rest : List Input), s.port = .readTx :: rest →
    (s.ControlInv → s.txValid = true →
      step s = .next { s with port := rest, done := none, out := some (.report
        (buildReport s.cfg s.cfg.echo
          (if s.mode = .capture then s.cfg.cmdScreenbuf else s.cfg.cmdSysinfo) 0 [])) }) ∧
    (s.txValid = false → step s = .refused .txNotValid)

/-- The model's choice (logs 17, 19) where the spec names no register or byte: the host's read of register 14, 15 or 25 and up faults, its read of FB at rest at an offset of WIDTH * HEIGHT * 2 or more faults, and its read of T_LAST (register 8) is refused, which R23 says is not readable. (R20, R23, R30) -/
def Obligations.ReadsOfWhatIsNotThereStop : Prop :=
  ∀ (s : State) (rest : List Input),
    (∀ k, k = 14 ∨ k = 15 ∨ 25 ≤ k → s.port = .readRegister k :: rest →
      step s = .fault (.noSuchRegister k)) ∧
    (∀ a, s.state.running = false → s.width.toNat * s.height.toNat * 2 ≤ a → s.port = .readFb a :: rest →
      step s = .fault (.fbOffset a)) ∧
    (s.port = .readRegister 8 :: rest → step s = .refused .notHostReadable)

/-- With legal parameters BODY_CAP + 8 = REPORT_LEN and a report built from a body of at least BODY_CAP bytes carries its first BODY_CAP bytes. A chunk extracted from a read of at most REPORT_LEN bytes has DATA_CAP + 4 = BODY_CAP and dlen = |data| <= DATA_CAP. With REPORT_LEN from 12 to 1027 the bound is reached: the report built from an address and DATA_CAP data bytes gives back all of them. At the defaults the two are 1016 and 1012. EXPECTED is WIDTH * HEIGHT * 2, at most 8589672450, which does not fit in 32 bits and is reached. (R4, R5, R84, R96) -/
def Obligations.ReportCapacitiesBoundEveryChunk : Prop :=
  (∀ (p : Params) (e c ix : Byte) (body : List Byte), p.Legal → p.bodyCap ≤ body.length →
    p.bodyCap + 8 = p.reportLen ∧ (buildReport p e c ix body).drop 8 = body.take p.bodyCap) ∧
  (∀ (p : Params) (n : Int) (B : List Byte) (c : Chunk), B.length = n.toNat → n ≤ (p.reportLen : Int) →
    extractChunk n B = some c →
    p.dataCap + 4 = p.bodyCap ∧ c.data.length = c.dlen ∧ c.dlen ≤ p.dataCap) ∧
  (∀ (p : Params) (e c ix : Byte) (addr : U32) (data : List Byte), 12 ≤ p.reportLen → p.reportLen ≤ 1027 →
    data.length = p.dataCap →
    extractChunk (p.reportLen : Int) (buildReport p e c ix (le32bytes addr ++ data)) =
      some ⟨addr, p.dataCap, data⟩) ∧
  (Params.standard.bodyCap = 1016 ∧ Params.standard.dataCap = 1012) ∧
  (∀ s : State, s.expected = s.width.toNat * s.height.toNat * 2 ∧ s.expected ≤ 8589672450 ∧
    (s.width = 0xFFFF → s.height = 0xFFFF → s.expected = 8589672450 ∧ 2 ^ 32 < s.expected))

/-- The model's choices: a frame with op code 0xE or 0xF whose timestamp is below that of the last event is refused as timestampDecreases (log 12: unassigned codes count as events); an outbound report without the header bytes of either request is refused as noReportKind (log 7: the block sends nothing else); reset with REPORT_LEN below 8 is refused as illegalParameters (log 18: R4 allows no such configuration). (R4, R25, R63, R131) -/
def Obligations.InputsOutsideTheSpecAreRefused : Prop :=
  ∀ (s : State) (rest : List Input),
    (∀ (code : BitVec 4) (a : OpArgs) (t0 : Nat), code = 0xE ∨ code = 0xF →
      s.port = .frame (.op code a) :: rest → s.tPrev = some t0 → a.t < t0 →
      step s = .refused .timestampDecreases) ∧
    (∀ B : List Byte, s.port = .frame (.wireOut B) :: rest → ¬ requestShape s.cfg B →
      step s = .refused .noReportKind) ∧
    (∀ (p : Params) (lost : List Frame), s.port = .reset p lost :: rest → p.reportLen < 8 →
      step s = .refused .illegalParameters)
end

