-- ==== Sys2Proof/Laws/Bytes.lean ====
section
/-! SUPPORT. The laws of bytes and header fields: packing and reading are inverse, and how the checksum loop moves
its sum. -/

namespace Sys2Proof.Machine

/-! ### Fields -/

@[simp] theorem hi8_append_lo8 (v : U16) : (hi8 v ++ lo8 v : BitVec 16) = v := by
  apply BitVec.eq_of_getLsbD_eq
  intro i hi
  simp only [hi8, lo8, BitVec.getLsbD_append, BitVec.getLsbD_setWidth, BitVec.getLsbD_ushiftRight]
  by_cases h : i < 8
  · simp [h]
  · have h2 : i - 8 < 8 := by omega
    have h3 : 8 + (i - 8) = i := by omega
    simp [h, h2, h3]

@[simp] theorem lo8_append (a b : Byte) : lo8 (a ++ b : BitVec 16) = b := by
  apply BitVec.eq_of_getLsbD_eq
  intro i hi
  simp only [lo8, BitVec.getLsbD_setWidth, BitVec.getLsbD_append]
  simp [hi]

@[simp] theorem hi8_append (a b : Byte) : hi8 (a ++ b : BitVec 16) = a := by
  apply BitVec.eq_of_getLsbD_eq
  intro i hi
  simp only [hi8, BitVec.getLsbD_setWidth, BitVec.getLsbD_ushiftRight, BitVec.getLsbD_append]
  simp [hi]

@[simp] theorem lenField_packStatusLen (st : BitVec 6) (len : BitVec 10) :
    lenField (packStatusLen st len) = len := by
  apply BitVec.eq_of_getLsbD_eq
  intro i hi
  simp only [lenField, packStatusLen, BitVec.getLsbD_setWidth, BitVec.getLsbD_append]
  simp [hi]

@[simp] theorem statusField_packStatusLen (st : BitVec 6) (len : BitVec 10) :
    statusField (packStatusLen st len) = st := by
  apply BitVec.eq_of_getLsbD_eq
  intro i hi
  simp only [statusField, packStatusLen, BitVec.getLsbD_setWidth, BitVec.getLsbD_ushiftRight,
    BitVec.getLsbD_append]
  simp [hi]

@[simp] theorem packStatusLen_fields (f : U16) : packStatusLen (statusField f) (lenField f) = f := by
  apply BitVec.eq_of_getLsbD_eq
  intro i hi
  simp only [statusField, lenField, packStatusLen, BitVec.getLsbD_append, BitVec.getLsbD_setWidth,
    BitVec.getLsbD_ushiftRight]
  by_cases h : i < 10
  · simp [h]
  · have h2 : i - 10 < 6 := by omega
    have h3 : 10 + (i - 10) = i := by omega
    simp [h, h2, h3]

theorem lo8_toNat (v : U16) : (lo8 v).toNat = v.toNat % 256 := by simp [lo8]

theorem hi8_toNat (v : U16) : (hi8 v).toNat = v.toNat / 256 := by
  have := v.isLt
  simp [hi8, Nat.shiftRight_eq_div_pow]
  omega

theorem packStatusLen_toNat (st : BitVec 6) (len : BitVec 10) :
    (packStatusLen st len).toNat = st.toNat * 1024 + len.toNat := by
  simp only [packStatusLen, BitVec.toNat_append]
  rw [← Nat.shiftLeft_add_eq_or_of_lt len.isLt, Nat.shiftLeft_eq]

theorem le16_toNat (B : List Byte) (i : Nat) :
    (le16 B i).toNat = (byteAt B i).toNat + 256 * (byteAt B (i + 1)).toNat := by
  simp only [le16, BitVec.toNat_append]
  rw [← Nat.shiftLeft_add_eq_or_of_lt (byteAt B i).isLt, Nat.shiftLeft_eq]
  omega

theorem le32_toNat (B : List Byte) (i : Nat) :
    (le32 B i).toNat = (le16 B i).toNat + 65536 * (le16 B (i + 2)).toNat := by
  simp only [le32, BitVec.toNat_append]
  rw [← Nat.shiftLeft_add_eq_or_of_lt (le16 B i).isLt, Nat.shiftLeft_eq]
  omega

/-! ### The header -/

@[simp] theorem packHeader_length (h : ReportHeader) : (packHeader h).length = 8 := rfl

/-- Reading the header of a report gives the fields it was packed from. -/
@[simp] theorem headerOf_packHeader_append (h : ReportHeader) (rest : List Byte) :
    headerOf (packHeader h ++ rest) = h := by
  simp [headerOf, packHeader, byteAt, le16]

/-- Packing the header read from a report gives its first 8 bytes back: no bit of the header is dropped. -/
theorem packHeader_headerOf {B : List Byte} (h : headerSize ≤ B.length) :
    packHeader (headerOf B) ++ B.drop 8 = B := by
  match B, h with
  | b0 :: b1 :: b2 :: b3 :: b4 :: b5 :: b6 :: b7 :: rest, _ =>
    simp [headerOf, packHeader, byteAt, le16]

@[simp] theorem drop_packHeader_append (h : ReportHeader) (rest : List Byte) :
    (packHeader h ++ rest).drop 8 = rest := rfl

theorem parseHeader_some {B : List Byte} (h : headerSize ≤ B.length) : parseHeader B = some (headerOf B) := by
  simp only [parseHeader, if_neg (Nat.not_lt.2 h)]

theorem parseHeader_none {B : List Byte} (h : B.length < headerSize) : parseHeader B = none := by
  simp only [parseHeader, if_pos h]

theorem parseHeader_eq_some {B : List Byte} {h : ReportHeader} :
    parseHeader B = some h ↔ headerSize ≤ B.length ∧ h = headerOf B := by
  by_cases hB : headerSize ≤ B.length
  · simp [parseHeader_some hB, hB, eq_comm]
  · simp [parseHeader_none (Nat.lt_of_not_le hB), hB]

/-! ### The checksum loop -/

/-- The sum so far is added to the sum of the rest. -/
theorem csumFrom_acc (acc : U16) (i : Nat) (B : List Byte) :
    csumFrom acc i B = acc + csumFrom 0 i B := by
  induction B generalizing acc i with
  | nil => simp [csumFrom]
  | cons b bs ih => rw [csumFrom, csumFrom, ih (acc + _), ih (0 + _)]; simp [BitVec.add_assoc]

theorem csumFrom_cons (i : Nat) (b : Byte) (bs : List Byte) :
    csumFrom 0 i (b :: bs) = csumTerm i b + csumFrom 0 (i + 1) bs := by
  rw [csumFrom, csumFrom_acc]; simp

/-- Only the parity of the first offset matters. -/
theorem csumTerm_congr {i j : Nat} (h : i % 2 = j % 2) (b : Byte) : csumTerm i b = csumTerm j b := by
  simp only [csumTerm, h]

theorem csumFrom_congr {i j : Nat} (h : i % 2 = j % 2) (B : List Byte) : csumFrom 0 i B = csumFrom 0 j B := by
  induction B generalizing i j with
  | nil => rfl
  | cons b bs ih => rw [csumFrom_cons, csumFrom_cons, csumTerm_congr h, ih (i := i + 1) (j := j + 1) (by omega)]

/-- The loop over two buffers in a row. -/
theorem csumFrom_append (i : Nat) (A B : List Byte) :
    csumFrom 0 i (A ++ B) = csumFrom 0 i A + csumFrom 0 (i + A.length) B := by
  induction A generalizing i with
  | nil => simp [csumFrom]
  | cons a A ih =>
    rw [List.cons_append, csumFrom_cons, csumFrom_cons, ih, BitVec.add_assoc, List.length_cons,
      show i + 1 + A.length = i + (A.length + 1) by omega]

/-- A byte's share of the sum is zero only for the byte zero. -/
theorem csumTerm_injective (i : Nat) {x y : Byte} (h : csumTerm i x = csumTerm i y) : x = y := by
  apply BitVec.eq_of_toNat_eq
  have h' := congrArg BitVec.toNat h
  have hx := x.isLt
  have hy := y.isLt
  simp only [csumTerm] at h'
  split at h' <;> simp [Nat.shiftLeft_eq] at h' <;> omega

/-! ### Reports -/

theorem layReport_length {p : Params} (hp : p.Legal) (h : ReportHeader) (body : List Byte) :
    (layReport p h body).length = p.reportLen := by
  simp only [layReport, List.length_append, packHeader_length, List.length_take, List.length_replicate,
    Params.bodyCap, headerSize]
  simp only [Params.Legal, headerSize] at hp
  omega

theorem sealReport_length {p : Params} (hp : p.Legal) (h : ReportHeader) (body : List Byte) :
    (sealReport p h body).length = p.reportLen := layReport_length hp _ _

/-- A built report is REPORT_LEN bytes long. -/
@[simp] theorem buildReport_length {p : Params} (hp : p.Legal) (e c i : Byte) (body : List Byte) :
    (buildReport p e c i body).length = p.reportLen := sealReport_length hp _ _

end Sys2Proof.Machine
end

