-- ==== Sys2Proof/Laws/Decode.lean ====
section
/-! SUPPORT. What the header patterns of 30_encoding.md R61 say, byte by byte. -/

namespace Sys2Proof

open Machine

/-- The header word, bit by bit: bit `i` is bit `i % 8` of byte `i / 8` (30_encoding.md R51). -/
theorem headerWord_getLsbD (B : List Byte) (i : Nat) (h : i < 64) :
    (headerWord B).getLsbD i = (byteAt B (i / 8)).getLsbD (i % 8) := by
  simp only [headerWord, le32, le16, BitVec.getLsbD_append]
  interval_cases i <;> rfl

theorem rspMask_getLsbD (i : Nat) (h : i < 64) : rspMask.getLsbD i = decide (i < 8 ∨ (48 ≤ i ∧ i < 56)) := by
  interval_cases i <;> rfl

theorem reqMask_getLsbD (i : Nat) (h : i < 64) : reqMask.getLsbD i = decide (i < 8 ∨ 32 ≤ i) := by
  interval_cases i <;> rfl

theorem rspMatch_getLsbD (r c : Byte) (i : Nat) (h : i < 64) :
    (rspMatch r c).getLsbD i =
      if i < 8 then r.getLsbD i else if 48 ≤ i ∧ i < 56 then c.getLsbD (i - 48) else false := by
  simp only [rspMatch, BitVec.getLsbD_append]
  interval_cases i <;> simp

theorem reqMatch_getLsbD (r c : Byte) (i : Nat) (h : i < 64) :
    (reqMatch r c).getLsbD i =
      if i < 8 then r.getLsbD i else if 48 ≤ i ∧ i < 56 then c.getLsbD (i - 48) else decide (i = 34) := by
  simp only [reqMatch, BitVec.getLsbD_append]
  interval_cases i <;> simp

theorem byte_eq_of_bits {a b : Byte} (h : ∀ k, k < 8 → a.getLsbD k = b.getLsbD k) : a = b :=
  BitVec.eq_of_getLsbD_eq h

/-- A report meets a response row exactly when it has a header with the row's report id and command. -/
theorem meetsRow_rsp (r c : Byte) (B : List Byte) :
    meetsRow rspMask (rspMatch r c) B = true ↔
      headerSize ≤ B.length ∧ byteAt B 0 = r ∧ byteAt B 6 = c := by
  simp only [meetsRow, Bool.and_eq_true, decide_eq_true_eq]
  refine and_congr_right fun _ => ⟨fun h => ?_, fun ⟨h0, h6⟩ => ?_⟩
  · have bit : ∀ i, i < 64 → ((headerWord B).getLsbD i && rspMask.getLsbD i) = (rspMatch r c).getLsbD i :=
      fun i _ => by rw [← BitVec.getLsbD_and, h]
    refine ⟨byte_eq_of_bits fun k hk => ?_, byte_eq_of_bits fun k hk => ?_⟩
    · have := bit k (by omega)
      rw [headerWord_getLsbD B k (by omega), rspMask_getLsbD k (by omega), rspMatch_getLsbD r c k (by omega)] at this
      simpa [hk, Nat.div_eq_of_lt hk, Nat.mod_eq_of_lt hk] using this
    · have := bit (48 + k) (by omega)
      rw [headerWord_getLsbD B _ (by omega), rspMask_getLsbD _ (by omega), rspMatch_getLsbD r c _ (by omega),
        show (48 + k) / 8 = 6 by omega, show (48 + k) % 8 = k by omega] at this
      simpa [show ¬ 48 + k < 8 by omega, show 48 + k < 56 by omega] using this
  · refine BitVec.eq_of_getLsbD_eq fun i hi => ?_
    rw [BitVec.getLsbD_and, headerWord_getLsbD B i hi, rspMask_getLsbD i hi, rspMatch_getLsbD r c i hi]
    by_cases h1 : i < 8
    · simp [h1, Nat.div_eq_of_lt h1, Nat.mod_eq_of_lt h1, h0]
    · by_cases h2 : 48 ≤ i ∧ i < 56
      · simp [h1, h2, show i / 8 = 6 by omega, show i % 8 = i - 48 by omega, h6]
      · simp only [h1, h2, or_self, decide_false, Bool.and_false, if_false]

/-- A report meets a request row exactly when it has a header with the row's report id and command, length 4, status
0 and index 0. -/
theorem meetsRow_req (r c : Byte) (B : List Byte) :
    meetsRow reqMask (reqMatch r c) B = true ↔
      headerSize ≤ B.length ∧ byteAt B 0 = r ∧ byteAt B 4 = 4 ∧ byteAt B 5 = 0 ∧ byteAt B 6 = c ∧ byteAt B 7 = 0 := by
  simp only [meetsRow, Bool.and_eq_true, decide_eq_true_eq]
  refine and_congr_right fun _ => ⟨fun h => ?_, fun ⟨h0, h4, h5, h6, h7⟩ => ?_⟩
  · have bit : ∀ i, i < 64 → ((headerWord B).getLsbD i && reqMask.getLsbD i) = (reqMatch r c).getLsbD i :=
      fun i _ => by rw [← BitVec.getLsbD_and, h]
    have bits : ∀ j k, j < 8 → k < 8 →
        ((byteAt B j).getLsbD k && decide (8 * j + k < 8 ∨ 32 ≤ 8 * j + k)) =
          if 8 * j + k < 8 then r.getLsbD (8 * j + k) else
            if 48 ≤ 8 * j + k ∧ 8 * j + k < 56 then c.getLsbD (8 * j + k - 48) else decide (8 * j + k = 34) := by
      intro j k hj hk
      have := bit (8 * j + k) (by omega)
      rwa [headerWord_getLsbD B _ (by omega), reqMask_getLsbD _ (by omega), reqMatch_getLsbD r c _ (by omega),
        show (8 * j + k) / 8 = j by omega, show (8 * j + k) % 8 = k by omega] at this
    refine ⟨byte_eq_of_bits fun k hk => ?_, byte_eq_of_bits fun k hk => ?_, byte_eq_of_bits fun k hk => ?_,
      byte_eq_of_bits fun k hk => ?_, byte_eq_of_bits fun k hk => ?_⟩
    · simpa [hk] using bits 0 k (by omega) hk
    · have := bits 4 k (by omega) hk
      interval_cases k <;> simpa using this
    · have := bits 5 k (by omega) hk
      interval_cases k <;> simpa using this
    · have := bits 6 k (by omega) hk
      interval_cases k <;> simpa using this
    · have := bits 7 k (by omega) hk
      interval_cases k <;> simpa using this
  · refine BitVec.eq_of_getLsbD_eq fun i hi => ?_
    rw [BitVec.getLsbD_and, headerWord_getLsbD B i hi, reqMask_getLsbD i hi, reqMatch_getLsbD r c i hi]
    interval_cases i <;> simp [h0, h4, h5, h6, h7]

end Sys2Proof
end

