-- ==== Sys2Proof/Laws/Memory.lean ====
section
/-! SUPPORT. The laws of FB's bytes: a read after a write, and that every memory operation keeps the canonical form
(offsets strictly rising). -/

namespace Sys2Proof.Machine

@[simp] theorem Memory.get?_nil (a : Nat) : Memory.get? [] a = none := rfl

theorem Memory.get?_cons (c : Host.Cell) (m : Memory) (a : Nat) :
    Memory.get? (c :: m) a = if c.1 = a then some c.2 else Memory.get? m a := by
  rw [Memory.get?]

/-- The canonical form, read at the head. -/
theorem Memory.wf_cons (c : Host.Cell) (m : Memory) :
    Memory.wf (c :: m) = true ↔ (∀ d ∈ m.head?, c.1 < d.1) ∧ Memory.wf m = true := by
  cases m with
  | nil => simp [Memory.wf]
  | cons d m => simp [Memory.wf]

/-- In canonical form every later offset is above the first. -/
theorem Memory.lt_of_mem {c : Host.Cell} {m : Memory} (h : Memory.wf (c :: m) = true) :
    ∀ d ∈ m, c.1 < d.1 := by
  induction m generalizing c with
  | nil => simp
  | cons e m ih =>
    obtain ⟨h1, h2⟩ := (Memory.wf_cons c (e :: m)).1 h
    have hce : c.1 < e.1 := h1 e (by simp)
    intro d hd
    rcases List.mem_cons.1 hd with rfl | hd
    · exact hce
    · exact Nat.lt_trans hce (ih h2 d hd)

/-- A read at an offset below every listed one finds nothing. -/
theorem Memory.get?_none_of_lt {m : Memory} {a : Nat} (h : ∀ d ∈ m, a < d.1) : m.get? a = none := by
  induction m with
  | nil => rfl
  | cons c m ih =>
    have hc : a < c.1 := h c (by simp)
    rw [Memory.get?_cons, if_neg (by omega), ih fun d hd => h d (by simp [hd])]

theorem Memory.head?_write (m : Memory) (a : Nat) (b : Byte) :
    ∀ d ∈ (Memory.write m a b).head?, d.1 = a ∨ ∃ e ∈ m.head?, d.1 = e.1 := by
  cases m with
  | nil => simp [Memory.write]
  | cons c m =>
    simp only [Memory.write]
    split
    · simp
    · split <;> simp

/-- A write keeps the canonical form. -/
theorem Memory.wf_write {m : Memory} (h : m.wf = true) (a : Nat) (b : Byte) : (m.write a b).wf = true := by
  induction m with
  | nil => rfl
  | cons c m ih =>
    have hm := ((Memory.wf_cons c m).1 h)
    simp only [Memory.write]
    split
    · exact (Memory.wf_cons _ _).2 ⟨by simpa, h⟩
    · split
      · rename_i _ he
        refine (Memory.wf_cons _ _).2 ⟨fun d hd => ?_, hm.2⟩
        have := hm.1 d hd
        omega
      · refine (Memory.wf_cons _ _).2 ⟨fun d hd => ?_, ih hm.2⟩
        rcases Memory.head?_write m a b d hd with h1 | ⟨e, he, h1⟩
        · omega
        · have := hm.1 e he
          omega

/-- A read after a write to the same offset gives the value written; every other offset reads as before. -/
theorem Memory.get?_write (m : Memory) (a : Nat) (b : Byte) (x : Nat) :
    (m.write a b).get? x = if x = a then some b else m.get? x := by
  induction m with
  | nil => simp only [Memory.write, Memory.get?_cons, Memory.get?_nil, eq_comm]
  | cons c m ih =>
    simp only [Memory.write]
    split
    · rw [Memory.get?_cons]
      simp only [eq_comm]
    · split
      · rename_i _ he
        simp only [Memory.get?_cons]
        by_cases hx : x = a
        · subst hx; simp
        · rw [if_neg (by omega), if_neg hx, if_neg (by omega)]
      · rename_i h1 h2
        simp only [Memory.get?_cons, ih]
        by_cases hx : x = a
        · subst hx; rw [if_neg (by omega)]; simp
        · simp [hx]

theorem Memory.wf_writeBytes {m : Memory} (h : m.wf = true) (a : Nat) (data : List Byte) :
    (m.writeBytes a data).wf = true := by
  induction data generalizing m a with
  | nil => exact h
  | cons b bs ih => exact ih (Memory.wf_write h a b) (a + 1)

/-- What a run of stores leaves at every offset: the data byte stored there, else what stood there. -/
theorem Memory.get?_writeBytes (m : Memory) (a : Nat) (data : List Byte) (x : Nat) :
    (m.writeBytes a data).get? x =
      if a ≤ x ∧ x < a + data.length then data[x - a]? else m.get? x := by
  induction data generalizing m a with
  | nil => simp [Memory.writeBytes]
  | cons b bs ih =>
    simp only [Memory.writeBytes, ih, Memory.get?_write, List.length_cons]
    by_cases h1 : x = a
    · subst h1; simp
    · by_cases h2 : a + 1 ≤ x ∧ x < a + 1 + bs.length
      · have h3 : x - a = (x - (a + 1)) + 1 := by omega
        rw [if_pos h2, if_pos (by omega), h3, List.getElem?_cons_succ]
      · rw [if_neg h2, if_neg h1, if_neg (by omega)]

/-- Equal memories are equal lists: two canonical memories that read alike are the same. -/
theorem Memory.ext {m m' : Memory} (h : m.wf = true) (h' : m'.wf = true)
    (he : ∀ a, m.get? a = m'.get? a) : m = m' := by
  induction m generalizing m' with
  | nil =>
    cases m' with
    | nil => rfl
    | cons c m' => have := he c.1; simp [Memory.get?_cons] at this
  | cons c m ih =>
    cases m' with
    | nil => have := he c.1; simp [Memory.get?_cons] at this
    | cons d m' =>
      have l1 := Memory.lt_of_mem h
      have l2 := Memory.lt_of_mem h'
      have hcd : c.1 = d.1 := by
        by_contra hne
        rcases Nat.lt_or_gt_of_ne hne with hlt | hgt
        · have e := he c.1
          rw [Memory.get?_cons, if_pos rfl, Memory.get?_cons, if_neg (by omega),
            Memory.get?_none_of_lt fun x hx => Nat.lt_trans hlt (l2 x hx)] at e
          cases e
        · have e := he d.1
          rw [Memory.get?_cons, if_neg (by omega), Memory.get?_cons, if_pos rfl,
            Memory.get?_none_of_lt fun x hx => Nat.lt_trans hgt (l1 x hx)] at e
          cases e
      have hval : c.2 = d.2 := by
        have e := he c.1
        rw [Memory.get?_cons, if_pos rfl, Memory.get?_cons, if_pos hcd.symm] at e
        exact Option.some.inj e
      have htail : m = m' := by
        refine ih ((Memory.wf_cons _ _).1 h).2 ((Memory.wf_cons _ _).1 h').2 fun a => ?_
        by_cases ha : c.1 = a
        · subst ha
          rw [Memory.get?_none_of_lt l1, Memory.get?_none_of_lt (hcd ▸ l2)]
        · have e := he a
          rwa [Memory.get?_cons, if_neg ha, Memory.get?_cons, if_neg (hcd ▸ ha)] at e
      rw [htail, Prod.ext hcd hval]

end Sys2Proof.Machine
end

