-- ==== Sys2Proof/Laws/State.lean ====
section
/-! SUPPORT. One lemma per field per named update of State, so that no proof unfolds an update. -/

namespace Sys2Proof.Machine

variable (s : State)

/-! ### endCycle -/

@[simp] theorem endCycle_state (st : SeqState) (r : CycleResult) (t : Nat) :
    (endCycle st r t s).state = st := rfl
@[simp] theorem endCycle_mode (st : SeqState) (r : CycleResult) (t : Nat) :
    (endCycle st r t s).mode = s.mode := rfl
@[simp] theorem endCycle_result (st : SeqState) (r : CycleResult) (t : Nat) :
    (endCycle st r t s).result = r := rfl
@[simp] theorem endCycle_width (st : SeqState) (r : CycleResult) (t : Nat) :
    (endCycle st r t s).width = s.width := rfl
@[simp] theorem endCycle_height (st : SeqState) (r : CycleResult) (t : Nat) :
    (endCycle st r t s).height = s.height := rfl
@[simp] theorem endCycle_fb (st : SeqState) (r : CycleResult) (t : Nat) :
    (endCycle st r t s).fb = s.fb := rfl
@[simp] theorem endCycle_maxEnd (st : SeqState) (r : CycleResult) (t : Nat) :
    (endCycle st r t s).maxEnd = s.maxEnd := rfl
@[simp] theorem endCycle_pktCount (st : SeqState) (r : CycleResult) (t : Nat) :
    (endCycle st r t s).pktCount = s.pktCount := rfl
@[simp] theorem endCycle_tStart (st : SeqState) (r : CycleResult) (t : Nat) :
    (endCycle st r t s).tStart = s.tStart := rfl
@[simp] theorem endCycle_tLast (st : SeqState) (r : CycleResult) (t : Nat) :
    (endCycle st r t s).tLast = s.tLast := rfl
@[simp] theorem endCycle_elapsed (st : SeqState) (r : CycleResult) (t : Nat) :
    (endCycle st r t s).elapsed = t - s.tStart := rfl
@[simp] theorem endCycle_qWidth (st : SeqState) (r : CycleResult) (t : Nat) :
    (endCycle st r t s).qWidth = s.qWidth := rfl
@[simp] theorem endCycle_qHeight (st : SeqState) (r : CycleResult) (t : Nat) :
    (endCycle st r t s).qHeight = s.qHeight := rfl
@[simp] theorem endCycle_qValid (st : SeqState) (r : CycleResult) (t : Nat) :
    (endCycle st r t s).qValid = s.qValid := rfl
@[simp] theorem endCycle_tx (st : SeqState) (r : CycleResult) (t : Nat) :
    (endCycle st r t s).tx = s.tx := rfl
@[simp] theorem endCycle_txValid (st : SeqState) (r : CycleResult) (t : Nat) :
    (endCycle st r t s).txValid = false := rfl
@[simp] theorem endCycle_cfg (st : SeqState) (r : CycleResult) (t : Nat) :
    (endCycle st r t s).cfg = s.cfg := rfl
@[simp] theorem endCycle_done (st : SeqState) (r : CycleResult) (t : Nat) :
    (endCycle st r t s).done = some r := rfl
@[simp] theorem endCycle_out (st : SeqState) (r : CycleResult) (t : Nat) :
    (endCycle st r t s).out = s.out := rfl
@[simp] theorem endCycle_port (st : SeqState) (r : CycleResult) (t : Nat) :
    (endCycle st r t s).port = s.port := rfl
@[simp] theorem endCycle_tPrev (st : SeqState) (r : CycleResult) (t : Nat) :
    (endCycle st r t s).tPrev = s.tPrev := rfl
@[simp] theorem endCycle_fbGen (st : SeqState) (r : CycleResult) (t : Nat) :
    (endCycle st r t s).fbGen = s.fbGen := rfl

/-! ### beginCycle -/

@[simp] theorem beginCycle_state (m : Mode) (t : Nat) :
    (beginCycle m t s).state = .requesting := rfl
@[simp] theorem beginCycle_mode (m : Mode) (t : Nat) :
    (beginCycle m t s).mode = m := rfl
@[simp] theorem beginCycle_result (m : Mode) (t : Nat) :
    (beginCycle m t s).result = .none := rfl
@[simp] theorem beginCycle_width (m : Mode) (t : Nat) :
    (beginCycle m t s).width = s.width := rfl
@[simp] theorem beginCycle_height (m : Mode) (t : Nat) :
    (beginCycle m t s).height = s.height := rfl
@[simp] theorem beginCycle_fb (m : Mode) (t : Nat) :
    (beginCycle m t s).fb = s.fb := rfl
@[simp] theorem beginCycle_maxEnd (m : Mode) (t : Nat) :
    (beginCycle m t s).maxEnd = s.maxEnd := rfl
@[simp] theorem beginCycle_pktCount (m : Mode) (t : Nat) :
    (beginCycle m t s).pktCount = 0 := rfl
@[simp] theorem beginCycle_tStart (m : Mode) (t : Nat) :
    (beginCycle m t s).tStart = t := rfl
@[simp] theorem beginCycle_tLast (m : Mode) (t : Nat) :
    (beginCycle m t s).tLast = t := rfl
@[simp] theorem beginCycle_elapsed (m : Mode) (t : Nat) :
    (beginCycle m t s).elapsed = 0 := rfl
@[simp] theorem beginCycle_qWidth (m : Mode) (t : Nat) :
    (beginCycle m t s).qWidth = s.qWidth := rfl
@[simp] theorem beginCycle_qHeight (m : Mode) (t : Nat) :
    (beginCycle m t s).qHeight = s.qHeight := rfl
@[simp] theorem beginCycle_qValid (m : Mode) (t : Nat) :
    (beginCycle m t s).qValid = s.qValid := rfl
@[simp] theorem beginCycle_tx (m : Mode) (t : Nat) :
    (beginCycle m t s).tx = request s.cfg (expectedCommand s.cfg m) := rfl
@[simp] theorem beginCycle_txValid (m : Mode) (t : Nat) :
    (beginCycle m t s).txValid = true := rfl
@[simp] theorem beginCycle_cfg (m : Mode) (t : Nat) :
    (beginCycle m t s).cfg = s.cfg := rfl
@[simp] theorem beginCycle_done (m : Mode) (t : Nat) :
    (beginCycle m t s).done = s.done := rfl
@[simp] theorem beginCycle_out (m : Mode) (t : Nat) :
    (beginCycle m t s).out = s.out := rfl
@[simp] theorem beginCycle_port (m : Mode) (t : Nat) :
    (beginCycle m t s).port = s.port := rfl
@[simp] theorem beginCycle_tPrev (m : Mode) (t : Nat) :
    (beginCycle m t s).tPrev = s.tPrev := rfl
@[simp] theorem beginCycle_fbGen (m : Mode) (t : Nat) :
    (beginCycle m t s).fbGen = s.fbGen := rfl

/-! ### State.openStep -/

@[simp] theorem State.openStep_state :
    (s.openStep).state = s.state := rfl
@[simp] theorem State.openStep_mode :
    (s.openStep).mode = s.mode := rfl
@[simp] theorem State.openStep_result :
    (s.openStep).result = s.result := rfl
@[simp] theorem State.openStep_width :
    (s.openStep).width = s.width := rfl
@[simp] theorem State.openStep_height :
    (s.openStep).height = s.height := rfl
@[simp] theorem State.openStep_fb :
    (s.openStep).fb = s.fb := rfl
@[simp] theorem State.openStep_maxEnd :
    (s.openStep).maxEnd = s.maxEnd := rfl
@[simp] theorem State.openStep_pktCount :
    (s.openStep).pktCount = s.pktCount := rfl
@[simp] theorem State.openStep_tStart :
    (s.openStep).tStart = s.tStart := rfl
@[simp] theorem State.openStep_tLast :
    (s.openStep).tLast = s.tLast := rfl
@[simp] theorem State.openStep_elapsed :
    (s.openStep).elapsed = s.elapsed := rfl
@[simp] theorem State.openStep_qWidth :
    (s.openStep).qWidth = s.qWidth := rfl
@[simp] theorem State.openStep_qHeight :
    (s.openStep).qHeight = s.qHeight := rfl
@[simp] theorem State.openStep_qValid :
    (s.openStep).qValid = s.qValid := rfl
@[simp] theorem State.openStep_tx :
    (s.openStep).tx = s.tx := rfl
@[simp] theorem State.openStep_txValid :
    (s.openStep).txValid = s.txValid := rfl
@[simp] theorem State.openStep_cfg :
    (s.openStep).cfg = s.cfg := rfl
@[simp] theorem State.openStep_done :
    (s.openStep).done = none := rfl
@[simp] theorem State.openStep_out :
    (s.openStep).out = none := rfl
@[simp] theorem State.openStep_port :
    (s.openStep).port = s.port := rfl
@[simp] theorem State.openStep_tPrev :
    (s.openStep).tPrev = s.tPrev := rfl
@[simp] theorem State.openStep_fbGen :
    (s.openStep).fbGen = s.fbGen := rfl

/-! ### setDimensions -/

@[simp] theorem setDimensions_state (w h : U16) :
    (setDimensions w h s).state = s.state := by
  unfold setDimensions; split <;> simp_all
@[simp] theorem setDimensions_mode (w h : U16) :
    (setDimensions w h s).mode = s.mode := by
  unfold setDimensions; split <;> simp_all
@[simp] theorem setDimensions_result (w h : U16) :
    (setDimensions w h s).result = s.result := by
  unfold setDimensions; split <;> simp_all
@[simp] theorem setDimensions_width (w h : U16) :
    (setDimensions w h s).width = w := by
  unfold setDimensions; split <;> simp_all
@[simp] theorem setDimensions_height (w h : U16) :
    (setDimensions w h s).height = h := by
  unfold setDimensions; split <;> simp_all
@[simp] theorem setDimensions_fb (w h : U16) :
    (setDimensions w h s).fb = if w = s.width ∧ h = s.height then s.fb else [] := by
  unfold setDimensions; split <;> simp_all
@[simp] theorem setDimensions_maxEnd (w h : U16) :
    (setDimensions w h s).maxEnd = s.maxEnd := by
  unfold setDimensions; split <;> simp_all
@[simp] theorem setDimensions_pktCount (w h : U16) :
    (setDimensions w h s).pktCount = s.pktCount := by
  unfold setDimensions; split <;> simp_all
@[simp] theorem setDimensions_tStart (w h : U16) :
    (setDimensions w h s).tStart = s.tStart := by
  unfold setDimensions; split <;> simp_all
@[simp] theorem setDimensions_tLast (w h : U16) :
    (setDimensions w h s).tLast = s.tLast := by
  unfold setDimensions; split <;> simp_all
@[simp] theorem setDimensions_elapsed (w h : U16) :
    (setDimensions w h s).elapsed = s.elapsed := by
  unfold setDimensions; split <;> simp_all
@[simp] theorem setDimensions_qWidth (w h : U16) :
    (setDimensions w h s).qWidth = s.qWidth := by
  unfold setDimensions; split <;> simp_all
@[simp] theorem setDimensions_qHeight (w h : U16) :
    (setDimensions w h s).qHeight = s.qHeight := by
  unfold setDimensions; split <;> simp_all
@[simp] theorem setDimensions_qValid (w h : U16) :
    (setDimensions w h s).qValid = s.qValid := by
  unfold setDimensions; split <;> simp_all
@[simp] theorem setDimensions_tx (w h : U16) :
    (setDimensions w h s).tx = s.tx := by
  unfold setDimensions; split <;> simp_all
@[simp] theorem setDimensions_txValid (w h : U16) :
    (setDimensions w h s).txValid = s.txValid := by
  unfold setDimensions; split <;> simp_all
@[simp] theorem setDimensions_cfg (w h : U16) :
    (setDimensions w h s).cfg = s.cfg := by
  unfold setDimensions; split <;> simp_all
@[simp] theorem setDimensions_done (w h : U16) :
    (setDimensions w h s).done = s.done := by
  unfold setDimensions; split <;> simp_all
@[simp] theorem setDimensions_out (w h : U16) :
    (setDimensions w h s).out = s.out := by
  unfold setDimensions; split <;> simp_all
@[simp] theorem setDimensions_port (w h : U16) :
    (setDimensions w h s).port = s.port := by
  unfold setDimensions; split <;> simp_all
@[simp] theorem setDimensions_tPrev (w h : U16) :
    (setDimensions w h s).tPrev = s.tPrev := by
  unfold setDimensions; split <;> simp_all
@[simp] theorem setDimensions_fbGen (w h : U16) :
    (setDimensions w h s).fbGen = if w = s.width ∧ h = s.height then s.fbGen else s.fbGen + 1 := by
  unfold setDimensions; split <;> simp_all

/-! ### accumulate -/

@[simp] theorem accumulate_state (addr : U32) (data : List Byte) :
    ((accumulate addr data s).1).state = s.state := by
  unfold accumulate; split <;> rfl
@[simp] theorem accumulate_mode (addr : U32) (data : List Byte) :
    ((accumulate addr data s).1).mode = s.mode := by
  unfold accumulate; split <;> rfl
@[simp] theorem accumulate_result (addr : U32) (data : List Byte) :
    ((accumulate addr data s).1).result = s.result := by
  unfold accumulate; split <;> rfl
@[simp] theorem accumulate_width (addr : U32) (data : List Byte) :
    ((accumulate addr data s).1).width = s.width := by
  unfold accumulate; split <;> rfl
@[simp] theorem accumulate_height (addr : U32) (data : List Byte) :
    ((accumulate addr data s).1).height = s.height := by
  unfold accumulate; split <;> rfl
@[simp] theorem accumulate_fb (addr : U32) (data : List Byte) :
    ((accumulate addr data s).1).fb = if inRange s addr data.length then s.fb.writeBytes addr.toNat data else s.fb := by
  unfold accumulate; split <;> rfl
@[simp] theorem accumulate_maxEnd (addr : U32) (data : List Byte) :
    ((accumulate addr data s).1).maxEnd = if inRange s addr data.length then max s.maxEnd (addr.toNat + data.length) else s.maxEnd := by
  unfold accumulate; split <;> rfl
@[simp] theorem accumulate_pktCount (addr : U32) (data : List Byte) :
    ((accumulate addr data s).1).pktCount = s.pktCount := by
  unfold accumulate; split <;> rfl
@[simp] theorem accumulate_tStart (addr : U32) (data : List Byte) :
    ((accumulate addr data s).1).tStart = s.tStart := by
  unfold accumulate; split <;> rfl
@[simp] theorem accumulate_tLast (addr : U32) (data : List Byte) :
    ((accumulate addr data s).1).tLast = s.tLast := by
  unfold accumulate; split <;> rfl
@[simp] theorem accumulate_elapsed (addr : U32) (data : List Byte) :
    ((accumulate addr data s).1).elapsed = s.elapsed := by
  unfold accumulate; split <;> rfl
@[simp] theorem accumulate_qWidth (addr : U32) (data : List Byte) :
    ((accumulate addr data s).1).qWidth = s.qWidth := by
  unfold accumulate; split <;> rfl
@[simp] theorem accumulate_qHeight (addr : U32) (data : List Byte) :
    ((accumulate addr data s).1).qHeight = s.qHeight := by
  unfold accumulate; split <;> rfl
@[simp] theorem accumulate_qValid (addr : U32) (data : List Byte) :
    ((accumulate addr data s).1).qValid = s.qValid := by
  unfold accumulate; split <;> rfl
@[simp] theorem accumulate_tx (addr : U32) (data : List Byte) :
    ((accumulate addr data s).1).tx = s.tx := by
  unfold accumulate; split <;> rfl
@[simp] theorem accumulate_txValid (addr : U32) (data : List Byte) :
    ((accumulate addr data s).1).txValid = s.txValid := by
  unfold accumulate; split <;> rfl
@[simp] theorem accumulate_cfg (addr : U32) (data : List Byte) :
    ((accumulate addr data s).1).cfg = s.cfg := by
  unfold accumulate; split <;> rfl
@[simp] theorem accumulate_done (addr : U32) (data : List Byte) :
    ((accumulate addr data s).1).done = s.done := by
  unfold accumulate; split <;> rfl
@[simp] theorem accumulate_out (addr : U32) (data : List Byte) :
    ((accumulate addr data s).1).out = s.out := by
  unfold accumulate; split <;> rfl
@[simp] theorem accumulate_port (addr : U32) (data : List Byte) :
    ((accumulate addr data s).1).port = s.port := by
  unfold accumulate; split <;> rfl
@[simp] theorem accumulate_tPrev (addr : U32) (data : List Byte) :
    ((accumulate addr data s).1).tPrev = s.tPrev := by
  unfold accumulate; split <;> rfl
@[simp] theorem accumulate_fbGen (addr : U32) (data : List Byte) :
    ((accumulate addr data s).1).fbGen = s.fbGen := by
  unfold accumulate; split <;> rfl

@[simp] theorem accumulate_accepted (addr : U32) (data : List Byte) :
    (accumulate addr data s).2 = inRange s addr data.length := by
  unfold accumulate; split <;> simp_all

/-! ### State.resetWith -/

variable (p : Params)

@[simp] theorem State.resetWith_state : (State.resetWith p).state = .idle := rfl
@[simp] theorem State.resetWith_mode : (State.resetWith p).mode = .capture := rfl
@[simp] theorem State.resetWith_result : (State.resetWith p).result = .none := rfl
@[simp] theorem State.resetWith_width : (State.resetWith p).width = 0 := rfl
@[simp] theorem State.resetWith_height : (State.resetWith p).height = 0 := rfl
@[simp] theorem State.resetWith_fb : (State.resetWith p).fb = [] := rfl
@[simp] theorem State.resetWith_maxEnd : (State.resetWith p).maxEnd = 0 := rfl
@[simp] theorem State.resetWith_pktCount : (State.resetWith p).pktCount = 0 := rfl
@[simp] theorem State.resetWith_tStart : (State.resetWith p).tStart = 0 := rfl
@[simp] theorem State.resetWith_tLast : (State.resetWith p).tLast = 0 := rfl
@[simp] theorem State.resetWith_elapsed : (State.resetWith p).elapsed = 0 := rfl
@[simp] theorem State.resetWith_qWidth : (State.resetWith p).qWidth = 0 := rfl
@[simp] theorem State.resetWith_qHeight : (State.resetWith p).qHeight = 0 := rfl
@[simp] theorem State.resetWith_qValid : (State.resetWith p).qValid = false := rfl
@[simp] theorem State.resetWith_tx : (State.resetWith p).tx = List.replicate p.reportLen 0 := rfl
@[simp] theorem State.resetWith_txValid : (State.resetWith p).txValid = false := rfl
@[simp] theorem State.resetWith_cfg : (State.resetWith p).cfg = p := rfl
@[simp] theorem State.resetWith_done : (State.resetWith p).done = none := rfl
@[simp] theorem State.resetWith_out : (State.resetWith p).out = none := rfl
@[simp] theorem State.resetWith_port : (State.resetWith p).port = [] := rfl
@[simp] theorem State.resetWith_tPrev : (State.resetWith p).tPrev = none := rfl
@[simp] theorem State.resetWith_fbGen : (State.resetWith p).fbGen = 0 := rfl

/-! ### Values computed from the dimensions alone -/

/-- EXPECTED depends on WIDTH and HEIGHT only (00_scope.md R5). -/
theorem State.expected_congr {s t : State} (hw : s.width = t.width) (hh : s.height = t.height) :
    s.expected = t.expected := by
  simp only [State.expected, hw, hh]

end Sys2Proof.Machine
end

