-- ==== Sys2Proof/Laws/Ops.lean ====
section
/-! SUPPORT. One lemma per shared operation that says once everything it can do. -/

namespace Sys2Proof.Machine

/-! ### The shapes of the meanings -/

theorem anyAbove_eq_false {s : State} {t : Nat} :
    s.tPrev.any (fun t0 => decide (t < t0)) = false ↔ TimeOk s t := by
  unfold TimeOk
  cases s.tPrev <;> simp

/-- An event at a time that does not decrease answers its effect, always. -/
theorem onEvent_of_timeOk {t : Nat} {s : State} (h : TimeOk s t) (e : State → State) :
    onEvent t s e = .next (e { s with tPrev := some t }) := by
  simp only [onEvent, anyAbove_eq_false.2 h, Bool.false_eq_true, if_false]

/-- An event at a time that decreases is refused by name. -/
theorem onEvent_of_not_timeOk {t : Nat} {s : State} (h : ¬ TimeOk s t) (e : State → State) :
    onEvent t s e = .refused .timestampDecreases := by
  have : s.tPrev.any (fun t0 => decide (t < t0)) = true := by
    cases hb : s.tPrev.any (fun t0 => decide (t < t0))
    · exact absurd (anyAbove_eq_false.1 hb) h
    · rfl
  simp only [onEvent, this, if_true]

/-- Everything an event can answer with a next state. -/
theorem onEvent_next {t : Nat} {s u : State} {e : State → State} :
    onEvent t s e = .next u ↔ TimeOk s t ∧ u = e { s with tPrev := some t } := by
  by_cases h : TimeOk s t
  · simp [onEvent_of_timeOk h, h, eq_comm]
  · simp [onEvent_of_not_timeOk h, h]

theorem whenWellFormed_of {i : Instr} {s : State} (h : WellFormed s.cfg i) (k : Outcome) :
    whenWellFormed i s k = k := by
  simp only [whenWellFormed, show i.defect s.cfg = none from h]

theorem whenWellFormed_defect {i : Instr} {s : State} {why : IllFormed} (h : i.defect s.cfg = some why)
    (k : Outcome) : whenWellFormed i s k = .refused (.illFormed why) := by
  simp only [whenWellFormed, h]

/-- Everything a guarded operation can answer with a next state. -/
theorem whenWellFormed_next {i : Instr} {s u : State} {k : Outcome} :
    whenWellFormed i s k = .next u ↔ WellFormed s.cfg i ∧ k = .next u := by
  cases h : i.defect s.cfg with
  | none => simp [whenWellFormed_of h, WellFormed, h]
  | some why => simp [whenWellFormed_defect h, WellFormed, h]

theorem giveResult_next {o : UnitOut} {s u : State} :
    giveResult o s = .next u ↔ u = { s with out := some o } := by
  simp [giveResult, eq_comm]

/-- The operands an RX event is defined on. -/
theorem wellFormed_rx {p : Params} {n : Int} {B : List Byte} {t : Nat} :
    WellFormed p (.rx n B t) ↔ CountOk n B ∧ n ≤ (p.reportLen : Int) := by
  simp only [WellFormed, Instr.defect]
  by_cases h1 : CountOk n B
  · by_cases h2 : n > (p.reportLen : Int)
    · simp [h1, h2]
    · simp [h1, h2]; omega
  · simp [h1]

/-! ### FB -/

theorem inRange_iff {s : State} {addr : U32} {dlen : Nat} :
    inRange s addr dlen = true ↔ addr.toNat + dlen ≤ s.expected := by
  simp [inRange]

/-- Everything ACCUM does: an accepted chunk is copied and raises MAX_END, any other leaves the state. -/
theorem accumulate_cases (addr : U32) (data : List Byte) (s : State) :
    (addr.toNat + data.length ≤ s.expected ∧
      accumulate addr data s =
        ({ s with fb := s.fb.writeBytes addr.toNat data,
                  maxEnd := max s.maxEnd (addr.toNat + data.length) }, true)) ∨
    (s.expected < addr.toNat + data.length ∧ accumulate addr data s = (s, false)) := by
  by_cases h : addr.toNat + data.length ≤ s.expected
  · exact .inl ⟨h, by simp only [accumulate, inRange_iff.2 h, if_true]⟩
  · refine .inr ⟨Nat.lt_of_not_le h, ?_⟩
    have : inRange s addr data.length = false := by simp [inRange, h]
    simp only [accumulate, this, Bool.false_eq_true, if_false]

/-- What every byte of FB reads after a run of stores. -/
theorem fbByte_writeBytes (s : State) (a : Nat) (data : List Byte) (x : Nat) :
    ({ s with fb := s.fb.writeBytes a data } : State).fbByte x =
      if a ≤ x ∧ x < a + data.length then data.getD (x - a) 0 else s.fbByte x := by
  simp only [State.fbByte, Memory.get?_writeBytes]
  by_cases h : a ≤ x ∧ x < a + data.length
  · have hlt : x - a < data.length := by omega
    simp [h, List.getElem?_eq_getElem hlt]
  · simp [h]

/-- A byte of FB depends on FB and the buffer's number alone. -/
theorem fbByte_congr {s u : State} (hf : u.fb = s.fb) (hg : u.fbGen = s.fbGen) (a : Nat) :
    u.fbByte a = s.fbByte a := by
  simp only [State.fbByte, hf, hg]

/-- A run of stores puts nothing outside the range stored to. -/
theorem get?_writeBytes_inside {m : Memory} {a : Nat} {data : List Byte} {bound : Nat}
    (hm : ∀ x b, m.get? x = some b → x < bound) (hr : a + data.length ≤ bound) :
    ∀ x b, (m.writeBytes a data).get? x = some b → x < bound := by
  intro x b h
  rw [Memory.get?_writeBytes] at h
  split at h
  · omega
  · exact hm x b h

/-! ### The sequencer: what each effect can be -/

theorem acceptsStart_iff {st : SeqState} :
    st.acceptsStart = true ↔ st = .idle ∨ st = .complete ∨ st = .timedOut := by
  cases st <;> simp [SeqState.acceptsStart]

theorem running_iff {st : SeqState} : st.running = true ↔ st = .requesting ∨ st = .collecting := by
  cases st <;> simp [SeqState.running]

theorem deadlinePassed_iff {s : State} {t : Nat} :
    deadlinePassed s t = true ↔ s.cfg.cmdTimeoutMs < t - s.tStart := by
  simp [deadlinePassed]

theorem coverageReached_iff {s : State} : coverageReached s = true ↔ s.expected ≤ s.maxEnd := by
  simp [coverageReached]

/-- The four things CAP_START can do (43_sequencer.md R111, R112). -/
theorem capStartEffect_cases (w h : U16) (t : Nat) (s : State) :
    (s.state.acceptsStart = false ∧ capStartEffect w h t s = s) ∨
    (s.state.acceptsStart = true ∧ (w = 0 ∨ h = 0) ∧
      capStartEffect w h t s =
        { s with mode := .capture, state := .invalidDimensions, result := .invalidDimensions, elapsed := 0,
                 done := some .invalidDimensions }) ∨
    (s.state.acceptsStart = true ∧ w ≠ 0 ∧ h ≠ 0 ∧
      capStartEffect w h t s = beginCycle .capture t { setDimensions w h s with maxEnd := 0 }) := by
  unfold capStartEffect
  cases hs : s.state.acceptsStart with
  | false => simp
  | true =>
    by_cases hz : w = 0 ∨ h = 0
    · exact .inr (.inl ⟨rfl, hz, by rw [if_pos rfl, if_pos hz]⟩)
    · exact .inr (.inr ⟨rfl, fun h => hz (.inl h), fun h => hz (.inr h), by rw [if_pos rfl, if_neg hz]⟩)

/-- The two things Q_START can do (43_sequencer.md R111, R113). -/
theorem qStartEffect_cases (t : Nat) (s : State) :
    (s.state.acceptsStart = false ∧ qStartEffect t s = s) ∨
    (s.state.acceptsStart = true ∧
      qStartEffect t s = beginCycle .query t { s with qWidth := 0, qHeight := 0, qValid := false }) := by
  unfold qStartEffect
  cases hs : s.state.acceptsStart <;> simp

/-- The four things TX_OK can do (43_sequencer.md R111, R114). -/
theorem txOkEffect_cases (t : Nat) (s : State) :
    (s.state ≠ .requesting ∧ txOkEffect t s = s) ∨
    (s.state = .requesting ∧ deadlinePassed s t = true ∧ s.mode = .capture ∧
      txOkEffect t s = endCycle .timedOut .noData t s) ∨
    (s.state = .requesting ∧ deadlinePassed s t = true ∧ s.mode = .query ∧
      txOkEffect t s = endCycle .timedOut .queryNone t s) ∨
    (s.state = .requesting ∧ deadlinePassed s t = false ∧
      txOkEffect t s = { s with txValid := false, state := .collecting }) := by
  unfold txOkEffect
  by_cases h : s.state = .requesting
  · cases hd : deadlinePassed s t <;> cases hm : s.mode <;> simp [h]
  · simp [h]

/-- The three things TX_FAIL can do (43_sequencer.md R111, R115). -/
theorem txFailEffect_cases (t : Nat) (s : State) :
    (s.state ≠ .requesting ∧ txFailEffect t s = s) ∨
    (s.state = .requesting ∧ s.mode = .capture ∧
      txFailEffect t s = endCycle .deviceError .deviceError t s) ∨
    (s.state = .requesting ∧ s.mode = .query ∧ txFailEffect t s = endCycle .timedOut .queryNone t s) := by
  unfold txFailEffect
  by_cases h : s.state = .requesting
  · cases hm : s.mode <;> simp [h]
  · simp [h]

/-- The two things RX_FATAL can do (43_sequencer.md R111, R129). -/
theorem rxFatalEffect_cases (t : Nat) (s : State) :
    (s.state ≠ .collecting ∧ rxFatalEffect t s = s) ∨
    (s.state = .collecting ∧ rxFatalEffect t s = endCycle .deviceError .deviceError t s) := by
  unfold rxFatalEffect
  by_cases h : s.state = .collecting <;> simp [h]

/-- The three things step 1 of RX in Capture mode can do (43_sequencer.md R116, R118). -/
theorem usePacket_cases (n : Int) (B : List Byte) (t : Nat) (s : State) :
    (qualify s.cfg n B s.cfg.cmdScreenbuf = false ∧ usePacket n B t s = s) ∨
    (qualify s.cfg n B s.cfg.cmdScreenbuf = true ∧
      (∀ c, extractChunk n B = some c → s.expected < c.addr.toNat + c.data.length) ∧
      usePacket n B t s = { s with pktCount := s.pktCount + 1 }) ∨
    (∃ c, qualify s.cfg n B s.cfg.cmdScreenbuf = true ∧ extractChunk n B = some c ∧
      c.addr.toNat + c.data.length ≤ s.expected ∧
      usePacket n B t s =
        { s with pktCount := s.pktCount + 1, tLast := t, fb := s.fb.writeBytes c.addr.toNat c.data,
                 maxEnd := max s.maxEnd (c.addr.toNat + c.data.length) }) := by
  unfold usePacket
  cases hq : qualify s.cfg n B s.cfg.cmdScreenbuf with
  | false => simp
  | true =>
    cases hc : extractChunk n B with
    | none => simp
    | some c =>
      refine .inr ?_
      rcases accumulate_cases c.addr c.data { s with pktCount := s.pktCount + 1 } with ⟨h, he⟩ | ⟨h, he⟩
      · exact .inr ⟨c, rfl, rfl, h, by simp only [if_true, he]⟩
      · refine .inl ⟨rfl, ?_, by simp only [if_true, he, Bool.false_eq_true, if_false]⟩
        intro d hd
        cases hd
        exact h

/-- The four things step 2 of RX in Capture mode can do (43_sequencer.md R119 to R122): the idle break adds none,
since coverage is tested before it (R123). -/
theorem captureEnd_cases (n : Int) (t : Nat) (s : State) :
    (s.expected ≤ s.maxEnd ∧ captureEnd n t s = endCycle .complete .complete t s) ∨
    (s.maxEnd < s.expected ∧ s.cfg.cmdTimeoutMs < t - s.tStart ∧ 0 < s.maxEnd ∧
      captureEnd n t s = endCycle .timedOut .partialFrame t s) ∨
    (s.maxEnd < s.expected ∧ s.cfg.cmdTimeoutMs < t - s.tStart ∧ s.maxEnd = 0 ∧
      captureEnd n t s = endCycle .timedOut .noData t s) ∨
    (s.maxEnd < s.expected ∧ t - s.tStart ≤ s.cfg.cmdTimeoutMs ∧ captureEnd n t s = s) := by
  unfold captureEnd
  by_cases hc : s.expected ≤ s.maxEnd
  · simp [coverageReached_iff.2 hc, hc]
  · have hc' : coverageReached s = false := by simp [coverageReached, hc]
    have hi : idleBreak s n t = false := by simp [idleBreak, hc']
    by_cases hd : s.cfg.cmdTimeoutMs < t - s.tStart
    · simp only [hc', hi, deadlinePassed_iff.2 hd, Bool.false_eq_true, if_false, if_true]
      by_cases hm : 0 < s.maxEnd
      · simp [hm, hd]; omega
      · have : s.maxEnd = 0 := by omega
        simp [this, hd]; omega
    · have hd' : deadlinePassed s t = false := by simp [deadlinePassed, hd]
      simp only [hc', hi, hd', Bool.false_eq_true, if_false]
      refine .inr (.inr (.inr ⟨by omega, by omega, trivial⟩))

/-- The five things RX in Query mode can do (43_sequencer.md R128). -/
theorem queryRead_cases (n : Int) (B : List Byte) (t : Nat) (s : State) :
    (∃ w h, qualify s.cfg n B s.cfg.cmdSysinfo = true ∧ decodeSize n B = some (w, h) ∧
      queryRead n B t s =
        endCycle .complete .queryOk t
          { s with pktCount := s.pktCount + 1, qWidth := w, qHeight := h, qValid := true }) ∨
    (∃ k, (k = if qualify s.cfg n B s.cfg.cmdSysinfo then s.pktCount + 1 else s.pktCount) ∧
      (qualify s.cfg n B s.cfg.cmdSysinfo = true → decodeSize n B = none) ∧
      ((s.cfg.cmdTimeoutMs < t - s.tStart ∧
          queryRead n B t s = endCycle .timedOut .queryNone t { s with pktCount := k }) ∨
        (t - s.tStart ≤ s.cfg.cmdTimeoutMs ∧ queryRead n B t s = { s with pktCount := k }))) := by
  unfold queryRead
  by_cases hd : s.cfg.cmdTimeoutMs < t - s.tStart
  · cases hq : qualify s.cfg n B s.cfg.cmdSysinfo <;> rcases hs : decodeSize n B with _ | ⟨w, h⟩ <;>
      simp [deadlinePassed, hd]
  · have hd' : t - s.tStart ≤ s.cfg.cmdTimeoutMs := by omega
    cases hq : qualify s.cfg n B s.cfg.cmdSysinfo <;> rcases hs : decodeSize n B with _ | ⟨w, h⟩ <;>
      simp [deadlinePassed, hd, hd']

/-- RX outside Collecting, in Capture mode, in Query mode (43_sequencer.md R111, R116, R128). -/
theorem rxEffect_cases (n : Int) (B : List Byte) (t : Nat) (s : State) :
    (s.state ≠ .collecting ∧ rxEffect n B t s = s) ∨
    (s.state = .collecting ∧ s.mode = .capture ∧
      rxEffect n B t s = captureEnd n t (usePacket n B t s)) ∨
    (s.state = .collecting ∧ s.mode = .query ∧ rxEffect n B t s = queryRead n B t s) := by
  unfold rxEffect
  by_cases h : s.state = .collecting
  · cases hm : s.mode <;> simp [h]
  · simp [h]

/-- The operations that deliver a read are those with a report (43_sequencer.md R116, R128). -/
theorem readReport_isSome (p : Params) (i : Instr) : (readReport p i).isSome = readEvent i := by
  cases i <;> rfl

/-- An operation that delivers a read, and answers a next state, has the effect of RX with its own report. -/
theorem exec_readReport {i : Instr} {n : Int} {B : List Byte} {s u : State}
    (hr : readReport s.cfg i = some (n, B)) (h : exec i s = .next u) :
    ∃ t, eventTime i = some t ∧ TimeOk s t ∧ u = rxEffect n B t { s with tPrev := some t } := by
  cases i <;> cases hr <;>
    exact ⟨_, rfl, onEvent_next.1 (whenWellFormed_next.1 h).2⟩

end Sys2Proof.Machine
end

