-- ==== Sys2Proof/Laws/PerInstr.lean ====
section
/-! SUPPORT. A family of statements, one per constructor of Instr: the frame that `encode` writes carries the
operation's row of opcode_table.json. -/

namespace Sys2Proof.Laws

/-- The frame carries the op-select code `code` (30_encoding.md R60). -/
def HasCode (code : BitVec 4) : Frame → Prop
  | .op c _ => c = code
  | .wireIn _ _ => False
  | .wireOut _ => False

/-- The frame is an outbound report with a request row's fixed bytes (30_encoding.md R57, R61). -/
def IsRequestOf (r c : Byte) : Frame → Prop
  | .wireOut B => B[0]? = some r ∧ B[4]? = some 4 ∧ B[5]? = some 0 ∧ B[6]? = some c ∧ B[7]? = some 0
  | .op _ _ => False
  | .wireIn _ _ => False

/-- The frame is an inbound report with a response row's fixed bytes (30_encoding.md R58, R59, R61). -/
def IsResponseOf (r c : Byte) : Frame → Prop
  | .wireIn B _ => B[0]? = some r ∧ B[6]? = some c
  | .op _ _ => False
  | .wireOut _ => False

/-- For all parameters the frame of `i` carries its row's code or pattern. -/
def EncodesRow.Statement (i : Instr) : Prop :=
  ∀ p : Params,
    match i with
    | .csum _ => HasCode 0x0 (encode p i)
    | .verify _ => HasCode 0x1 (encode p i)
    | .build _ _ _ _ => HasCode 0x2 (encode p i)
    | .parse _ => HasCode 0x3 (encode p i)
    | .qualify _ _ _ => HasCode 0x4 (encode p i)
    | .chunk _ _ => HasCode 0x5 (encode p i)
    | .sizedec _ _ => HasCode 0x6 (encode p i)
    | .accum _ _ => HasCode 0x7 (encode p i)
    | .capStart _ _ _ => HasCode 0x8 (encode p i)
    | .qStart _ => HasCode 0x9 (encode p i)
    | .txOk _ => HasCode 0xA (encode p i)
    | .txFail _ => HasCode 0xB (encode p i)
    | .rx _ _ _ => HasCode 0xC (encode p i)
    | .rxFatal _ => HasCode 0xD (encode p i)
    | .reqSysinfo _ _ _ => IsRequestOf p.reportId p.cmdSysinfo (encode p i)
    | .reqScreenbuf _ _ _ => IsRequestOf p.reportId p.cmdScreenbuf (encode p i)
    | .rspSysinfo _ _ _ _ _ _ _ => IsResponseOf p.reportId p.cmdSysinfo (encode p i)
    | .rspScreenbuf _ _ _ _ _ _ _ => IsResponseOf p.reportId p.cmdScreenbuf (encode p i)

theorem EncodesRow.csum (B : List Byte) : EncodesRow.Statement (.csum B) := fun _ => rfl
theorem EncodesRow.verify (B : List Byte) : EncodesRow.Statement (.verify B) := fun _ => rfl
theorem EncodesRow.build (echo command index : Byte) (body : List Byte) :
    EncodesRow.Statement (.build echo command index body) := fun _ => rfl
theorem EncodesRow.parse (B : List Byte) : EncodesRow.Statement (.parse B) := fun _ => rfl
theorem EncodesRow.qualify (n : Int) (B : List Byte) (c : Byte) : EncodesRow.Statement (.qualify n B c) :=
  fun _ => rfl
theorem EncodesRow.chunk (n : Int) (B : List Byte) : EncodesRow.Statement (.chunk n B) := fun _ => rfl
theorem EncodesRow.sizedec (n : Int) (B : List Byte) : EncodesRow.Statement (.sizedec n B) := fun _ => rfl
theorem EncodesRow.accum (addr : U32) (data : List Byte) : EncodesRow.Statement (.accum addr data) := fun _ => rfl
theorem EncodesRow.capStart (w h : U16) (t : Nat) : EncodesRow.Statement (.capStart w h t) := fun _ => rfl
theorem EncodesRow.qStart (t : Nat) : EncodesRow.Statement (.qStart t) := fun _ => rfl
theorem EncodesRow.txOk (t : Nat) : EncodesRow.Statement (.txOk t) := fun _ => rfl
theorem EncodesRow.txFail (t : Nat) : EncodesRow.Statement (.txFail t) := fun _ => rfl
theorem EncodesRow.rx (n : Int) (B : List Byte) (t : Nat) : EncodesRow.Statement (.rx n B t) := fun _ => rfl
theorem EncodesRow.rxFatal (t : Nat) : EncodesRow.Statement (.rxFatal t) := fun _ => rfl

/-- Byte 4 of a request: the low byte of length 4, status 0 (30_encoding.md R52, R61). -/
theorem request_byte_four : Machine.lo8 (Machine.packStatusLen 0 4) = 4 := by decide

/-- Byte 5 of a request: the high byte of length 4, status 0 (30_encoding.md R52, R61). -/
theorem request_byte_five : Machine.hi8 (Machine.packStatusLen 0 4) = 0 := by decide

theorem EncodesRow.reqSysinfo (echo : Byte) (checksum : U16) (body : List Byte) :
    EncodesRow.Statement (.reqSysinfo echo checksum body) :=
  fun _ => ⟨rfl, congrArg some request_byte_four, congrArg some request_byte_five, rfl, rfl⟩

theorem EncodesRow.reqScreenbuf (echo : Byte) (checksum : U16) (body : List Byte) :
    EncodesRow.Statement (.reqScreenbuf echo checksum body) :=
  fun _ => ⟨rfl, congrArg some request_byte_four, congrArg some request_byte_five, rfl, rfl⟩

theorem EncodesRow.rspSysinfo (echo : Byte) (checksum : U16) (status : BitVec 6) (len : BitVec 10) (index : Byte)
    (body : List Byte) (t : Nat) :
    EncodesRow.Statement (.rspSysinfo echo checksum status len index body t) := fun _ => ⟨rfl, rfl⟩

theorem EncodesRow.rspScreenbuf (echo : Byte) (checksum : U16) (status : BitVec 6) (len : BitVec 10) (index : Byte)
    (body : List Byte) (t : Nat) :
    EncodesRow.Statement (.rspScreenbuf echo checksum status len index body t) := fun _ => ⟨rfl, rfl⟩

end Sys2Proof.Laws
end

