-- ==== Sys2Proof/Tests/Slice0.lean ====
section
/-! SUPPORT. The model's own tests: the well-formedness checks, the encodings written out from 30_encoding.md, the
spec's test vectors (95_test_vectors.md), and for every statement with hypotheses a concrete input that meets them. -/

namespace Sys2Proof.Tests

open Sys2Proof Sys2Proof.Machine

/-! ### Helpers -/

/-- The vectors' parameters with a short report, so that a whole report fits a line. -/
def cfg : Params := { echo := 0x5A, reportLen := 32 }

/-- The machine after reset with those parameters. -/
def idle : State := State.resetWith cfg

/-- A cycle that started at time 0 and reads since time 1; a 2 x 2 frame, so EXPECTED = 8. -/
def reading (m : Mode) : State :=
  { idle with state := .collecting, mode := m, width := 2, height := 2, tPrev := some 1, fbGen := 1 }

/-- A cycle that started at time 0, its request standing in TX. -/
def asking (m : Mode) : State :=
  { idle with state := .requesting, mode := m, width := 2, height := 2, tPrev := some 0, fbGen := 1,
              tx := request cfg (expectedCommand cfg m), txValid := true }

/-- At rest after a failed cycle. -/
def failed (st : SeqState) (r : CycleResult) : State :=
  { idle with state := st, result := r, elapsed := 2, tPrev := some 2, width := 2, height := 2, fbGen := 1 }

def next? : Outcome → Option State
  | .next s => some s
  | .fault _ => none
  | .refused _ => none

def refusal? : Outcome → Option Refusal
  | .refused r => some r
  | .fault _ => none
  | .next _ => none

/-- What an operation puts on the unit port. -/
def outOf (i : Instr) (s : State) : Option UnitOut := (next? (exec i s)).bind State.out

/-- The first 14 bytes of V-QUA-1: the chunk AA BB at address 0. -/
def chunkReport : List Byte := [0x22, 0x5A, 0xFB, 0x15, 0x0A, 0, 0x25, 0, 0, 0, 0, 0, 0xAA, 0xBB]

/-- The first 12 bytes of V-SIZ-2: 160 x 80. -/
def sizeReport : List Byte := [0x22, 0x5A, 0x1C, 0x5B, 0x08, 0, 0x02, 0, 0xA0, 0, 0x50, 0]

/-! ### WellFormed: one ill-formed term per check -/

theorem test_wellFormed_refuses_a_wrong_count :
    (Instr.qualify 3 [1, 2] 0x25).defect cfg = some .countMismatch ∧
      (Instr.rx (-1) [0] 0).defect cfg = some .countMismatch ∧
      (Instr.sizedec 0 [1]).defect cfg = some .countMismatch ∧
      (Instr.chunk 9 (List.replicate 8 0)).defect cfg = some .countMismatch := by decide

theorem test_wellFormed_refuses_a_long_report :
    (Instr.rx 33 (List.replicate 33 0) 0).defect cfg = some .reportTooLong ∧
      (Instr.rspSysinfo 0 0 0 0 0 (List.replicate 25 0) 0).defect cfg = some .reportTooLong ∧
      (Instr.rspScreenbuf 0 0 0 0 0 (List.replicate 25 0) 0).defect cfg = some .reportTooLong ∧
      (Instr.rx 32 (List.replicate 32 0) 0).defect cfg = none := by decide

theorem test_wellFormed_refuses_a_short_header :
    (Instr.parse (List.replicate 7 0)).defect cfg = some .headerTooShort ∧
      (Instr.chunk 7 (List.replicate 7 0)).defect cfg = some .headerTooShort ∧
      (Instr.parse (List.replicate 8 0)).defect cfg = none := by decide

/-! ### Decoding: each row's word, written out from 30_encoding.md R60 and R61 -/

theorem test_decode_checksum_words :
    decodeTableWord 8 0x0 = some (.csum []) ∧ decodeTableWord 8 0x1 = some (.verify []) := by decide

theorem test_decode_codec_words :
    decodeTableWord 8 0x2 = some (.build 0 0 0 []) ∧
      decodeTableWord 8 0x3 = some (.parse [0, 0, 0, 0, 0, 0, 0, 0]) ∧
      decodeTableWord 8 0x4 = some (.qualify 0 [] 0) ∧ decodeTableWord 8 0x6 = some (.sizedec 0 []) := by decide

theorem test_decode_accumulator_words :
    decodeTableWord 8 0x5 = some (.chunk 8 [0, 0, 0, 0, 0, 0, 0, 0]) ∧
      decodeTableWord 8 0x7 = some (.accum 0 []) := by decide

theorem test_decode_sequencer_words :
    decodeTableWord 8 0x8 = some (.capStart 0 0 0) ∧ decodeTableWord 8 0x9 = some (.qStart 0) ∧
      decodeTableWord 8 0xA = some (.txOk 0) ∧ decodeTableWord 8 0xB = some (.txFail 0) ∧
      decodeTableWord 8 0xC = some (.rx 0 [] 0) ∧ decodeTableWord 8 0xD = some (.rxFatal 0) := by decide

theorem test_decode_unassigned_words :
    decodeTableWord 8 0xE = none ∧ decodeTableWord 8 0xF = none := by decide

/-- V-BLD-3 and V-BLD-4 as header words; the two response match words of R61. -/
theorem test_decode_wire_words :
    decodeTableWord 64 0x000200045A285A22 = some (.reqSysinfo 0x5A 0x5A28 []) ∧
      decodeTableWord 64 0x002500045A4B5A22 = some (.reqScreenbuf 0x5A 0x5A4B []) ∧
      decodeTableWord 64 0x0002000000000022 = some (.rspSysinfo 0 0 0 0 0 [] 0) ∧
      decodeTableWord 64 0x0025000000000022 = some (.rspScreenbuf 0 0 0 0 0 [] 0) := by decide

/-- V-PAR-4's header: status 3, length 12, index 7. -/
theorem test_decode_response_fields :
    decodeTableWord 64 0x07250C0CA0855A22 = some (.rspScreenbuf 0x5A 0xA085 3 12 7 [] 0) := by decide

/-! ### The units, on the spec's vectors -/

/-- V-CS-1, V-CS-3, V-CS-5, V-CS-9, V-CS-11. -/
theorem test_csum :
    csum [] = 0 ∧ csum [0x01, 0x02] = 0x0201 ∧ outOf (.csum [0x12, 0x34, 0x56, 0x78]) idle = some (.word 0xAC68) ∧
      csum [0xFF, 0xFF, 0x01] = 0 ∧ csum [0xFF, 0xFF, 0xFF, 0xFF] = 0xFFFE := by decide

/-- V-VER-1 to V-VER-4, and V-VER-6 on the bare header. -/
theorem test_verify :
    outOf (.verify []) idle = some (.verdict false) ∧ verify (List.replicate 7 0) = false ∧
      verify (List.replicate 8 0) = true ∧
      outOf (.verify [0x22, 0x5A, 0x4B, 0x5A, 0x04, 0, 0x25, 0]) idle = some (.verdict true) ∧
      verify [0x22, 0x5A, 0x4A, 0x5A, 0x04, 0, 0x25, 0] = false := by decide

/-- V-BLD-5 and V-BLD-4, at 32 bytes (trailing zeros change no checksum, R71). -/
theorem test_build :
    outOf (.build 0x11 0x7F 0x03 [0xAA, 0xBB, 0xCC]) idle = some (.report
      ([0x22, 0x11, 0x1E, 0xD1, 0x07, 0, 0x7F, 0x03, 0xAA, 0xBB, 0xCC] ++ List.replicate 21 0)) ∧
    request cfg 0x25 = [0x22, 0x5A, 0x4B, 0x5A, 0x04, 0, 0x25, 0] ++ List.replicate 24 0 := by decide

/-- V-BLD-9: the length field of a body of 1020 bytes wraps to 0, and the body is truncated. -/
theorem test_build_length_wraps :
    buildReport Params.standard 0 0x25 0 (List.replicate 1020 0x01) =
      [0x22, 0, 0x43, 0xFE, 0, 0, 0x25, 0] ++ List.replicate 1016 0x01 := by decide +kernel

/-- V-PAR-4 and V-PAR-7. -/
theorem test_parse :
    outOf (.parse [0x22, 0x5A, 0x85, 0xA0, 0x0C, 0x0C, 0x25, 0x07]) idle =
      some (.header ⟨0x22, 0x5A, 0xA085, 3, 12, 0x25, 7⟩) ∧
    refusal? (exec (.parse (List.replicate 7 0)) idle) = some (.illFormed .headerTooShort) := by decide

/-- V-QUA-8 to V-QUA-11, V-QUA-13. -/
theorem test_qualify :
    qualify cfg 7 (chunkReport.take 7) 0x25 = false ∧ qualify cfg (-1) [] 0x25 = false ∧
      outOf (.qualify 14 chunkReport 0x25) idle = some (.verdict true) ∧
      qualify cfg 13 (chunkReport.take 13) 0x25 = false ∧
      qualify cfg 8 [0x22, 0x5A, 0x4B, 0x5A, 0x04, 0, 0x25, 0] 0x25 = true := by decide

/-- V-QUA-2 to V-QUA-6 and V-QUA-14: the echo, the report id and the command. -/
theorem test_qualify_fields :
    qualify cfg 14 [0x22, 0, 0xFB, 0xBB, 0x0A, 0, 0x25, 0, 0, 0, 0, 0, 0xAA, 0xBB] 0x25 = true ∧
      qualify cfg 14 [0x22, 0x5B, 0x52, 0x5D, 0x0A, 0, 0x25, 0, 0, 0, 0, 0, 1, 2] 0x25 = false ∧
      qualify cfg 14 [0x21, 0x5A, 0x51, 0x5C, 0x0A, 0, 0x25, 0, 0, 0, 0, 0, 1, 2] 0x25 = false ∧
      qualify cfg 12 sizeReport 0x25 = false ∧ qualify cfg 12 sizeReport 0x02 = true ∧
      qualify { cfg with echo := 0 } 14 chunkReport 0x25 = false := by decide

/-- V-CHK-6, V-CHK-4, and a length the bytes do not back (R96). -/
theorem test_chunk :
    outOf (.chunk 14 chunkReport) idle = some (.chunk (some ⟨0, 2, [0xAA, 0xBB]⟩)) ∧
      outOf (.chunk 11 [0x22, 0x5A, 0x52, 0x5C, 0x07, 0, 0x25, 0, 1, 2, 3]) idle = some (.chunk none) ∧
      outOf (.chunk 13 (chunkReport.take 13)) idle = some (.chunk none) := by decide

/-- V-SIZ-4 and V-SIZ-5. -/
theorem test_sizedec :
    outOf (.sizedec 12 sizeReport) idle = some (.size (some (160, 80))) ∧
      outOf (.sizedec 11 (sizeReport.take 11)) idle = some (.size none) := by decide

/-- V-ACC-4, V-ACC-5, V-ACC-9 scaled to the 8-byte frame: the last byte, one past it, and no wrap of the sum. -/
theorem test_accum :
    ((next? (exec (.accum 6 [0x55, 0x66]) (reading .capture))).map fun u => (u.fb, u.maxEnd, u.out)) =
        some ([(6, 0x55), (7, 0x66)], 8, some (.verdict true)) ∧
      ((next? (exec (.accum 6 [1, 2, 3]) (reading .capture))).map fun u => (u.fb, u.maxEnd, u.out)) =
        some ([], 0, some (.verdict false)) ∧
      outOf (.accum 0xFFFFFFF0 (List.replicate 32 0x77)) (reading .capture) = some (.verdict false) := by decide

/-- V-ACC-8 and V-ACC-7 scaled: a zero-length chunk past and at the end. -/
theorem test_accum_zero_length :
    ((next? (exec (.accum 9 []) (reading .capture))).map State.maxEnd) = some 0 ∧
      ((next? (exec (.accum 8 []) (reading .capture))).map State.maxEnd) = some 8 := by decide

/-! ### The sequencer, on the spec's vectors -/

/-- V-SEQ-1. -/
theorem test_capStart :
    ((next? (exec (.capStart 10 10 0) idle)).map fun u =>
        ((u.state, u.mode), (u.width, u.height), (u.txValid, u.tx.take 8))) =
      some ((.requesting, .capture), (10, 10), (true, [0x22, 0x5A, 0x4B, 0x5A, 0x04, 0, 0x25, 0])) := by decide

/-- V-SEQ-6, V-SEQ-6b. -/
theorem test_capStart_zero :
    ((next? (exec (.capStart 0 5 0) idle)).map fun u => (u.state, u.result, u.width, u.done)) =
        some (.invalidDimensions, .invalidDimensions, 0, some .invalidDimensions) ∧
      ((next? (exec (.capStart 5 0 0) idle)).map State.state) = some .invalidDimensions := by decide

/-- V-SEQ-16. -/
theorem test_qStart :
    ((next? (exec (.qStart 0) idle)).map fun u => (u.state, u.mode, u.txValid, u.tx.take 8)) =
      some (.requesting, .query, true, [0x22, 0x5A, 0x28, 0x5A, 0x04, 0, 0x02, 0]) := by decide

/-- V-SEQ-2, V-SEQ-2b, V-SEQ-19. -/
theorem test_txOk :
    ((next? (exec (.txOk 1500) (asking .capture))).map fun u => (u.state, u.txValid)) = some (.collecting, false) ∧
      ((next? (exec (.txOk 1501) (asking .capture))).map fun u => (u.state, u.result, u.elapsed, u.done)) =
        some (.timedOut, .noData, 1501, some .noData) ∧
      ((next? (exec (.txOk 1501) (asking .query))).map fun u => (u.state, u.result)) =
        some (.timedOut, .queryNone) := by decide

/-- V-SEQ-4, V-SEQ-17. -/
theorem test_txFail :
    ((next? (exec (.txFail 2) (asking .capture))).map fun u => (u.state, u.result, u.elapsed)) =
        some (.deviceError, .deviceError, 2) ∧
      ((next? (exec (.txFail 1) (asking .query))).map fun u => (u.state, u.result, u.elapsed)) =
        some (.timedOut, .queryNone, 1) := by decide

/-- V-SEQ-8 scaled: the late packet is used, then the deadline applies; and V-SEQ-3's boundary. -/
theorem test_rx_capture :
    ((next? (exec (.rx 14 chunkReport 1600) (reading .capture))).map fun u =>
        ((u.state, u.result, u.elapsed), (u.maxEnd, u.pktCount, u.fb))) =
        some ((.timedOut, .partialFrame, 1600), (2, 1, [(0, 0xAA), (1, 0xBB)])) ∧
      ((next? (exec (.rx 0 [] 1500) (reading .capture))).map State.state) = some .collecting ∧
      ((next? (exec (.rx (-1) [] 1501) (reading .capture))).map State.result) = some .noData := by decide

/-- V-SEQ-20. -/
theorem test_rx_query :
    ((next? (exec (.rx 12 sizeReport 6) (reading .query))).map fun u =>
        (u.state, u.result, u.qWidth, u.qHeight, u.qValid, u.elapsed)) =
        some (.complete, .queryOk, 160, 80, true, 6) ∧
      ((next? (exec (.rx 11 (sizeReport.take 11) 4) (reading .query))).map fun u =>
        (u.state, u.pktCount, u.qValid)) = some (.collecting, 1, false) := by decide

/-- V-SEQ-22. -/
theorem test_rxFatal :
    ((next? (exec (.rxFatal 7) (reading .query))).map fun u => (u.state, u.result, u.elapsed)) =
      some (.deviceError, .deviceError, 7) := by decide

/-- V-BLD-3 is the SystemInfo request; another checksum is not. -/
theorem test_reqSysinfo :
    outOf (.reqSysinfo 0x5A 0x5A28 (List.replicate 24 0)) idle = some (.request (request cfg 0x02) true) ∧
      outOf (.reqSysinfo 0x5A 0x5A29 (List.replicate 24 0)) idle = some (.request (request cfg 0x02) false) := by
  decide

/-- V-BLD-4 is the ScreenBuffer request; one byte less is not. -/
theorem test_reqScreenbuf :
    outOf (.reqScreenbuf 0x5A 0x5A4B (List.replicate 24 0)) idle = some (.request (request cfg 0x25) true) ∧
      outOf (.reqScreenbuf 0x5A 0x5A4B (List.replicate 23 0)) idle = some (.request (request cfg 0x25) false) := by
  decide

/-- V-SEQ-20's second report as a response on the wire; ignored in Capture mode (R118). -/
theorem test_rspSysinfo :
    ((next? (exec (.rspSysinfo 0x5A 0x5B1C 0 8 0 [0xA0, 0, 0x50, 0] 6) (reading .query))).map fun u =>
        (u.state, u.qWidth, u.qHeight)) = some (.complete, 160, 80) ∧
      ((next? (exec (.rspSysinfo 0x5A 0x5B1C 0 8 0 [0xA0, 0, 0x50, 0] 6) (reading .capture))).map fun u =>
        (u.state, u.pktCount)) = some (.collecting, 0) := by decide

/-- V-QUA-1's report as a response on the wire. -/
theorem test_rspScreenbuf :
    ((next? (exec (.rspScreenbuf 0x5A 0x15FB 0 10 0 [0, 0, 0, 0, 0xAA, 0xBB] 5) (reading .capture))).map fun u =>
        (u.state, u.fb, u.maxEnd, u.pktCount, u.tLast)) =
      some (.collecting, [(0, 0xAA), (1, 0xBB)], 2, 1, 5) := by decide

/-! ### The step -/

/-- The word of each table row, placed where the next step takes its input, runs as the first operation after reset:
here CAP_START, whose operands of zeros are invalid dimensions. -/
theorem test_step_runs_the_placed_word :
    ((next? (step (idle.withFetchWord 8 0x8))).map State.state) = some .invalidDimensions := by decide

theorem test_step_unassigned_code_is_ignored :
    next? (step { idle with port := [.frame (.op 0xE {})] }) = some { idle with tPrev := some 0 } := by decide

/-! ### Witnesses: for each statement with hypotheses, an input that meets them -/

/-- The third byte of the first buffer and the first of the second trade places. -/
theorem test_witness_CsumIsInvariantUnderSameParityPermutation :
    (bytesAtParity 0 [0x12, 0x34, 0x56, 0x78]).Perm (bytesAtParity 0 [0x56, 0x78, 0x12, 0x34]) ∧
      (bytesAtParity 1 [0x12, 0x34, 0x56, 0x78]).Perm (bytesAtParity 1 [0x56, 0x78, 0x12, 0x34]) := by decide

theorem test_witness_CsumOfConcatenationAndOfTrailingZeros : [(0x12 : Byte), 0x34].length % 2 = 0 := by decide

/-- An even offset, an odd one, and the last byte. -/
theorem test_witness_CsumAfterOneByteChange :
    [(0x12 : Byte), 0x34, 0x56][0]? = some 0x12 ∧ [(0x12 : Byte), 0x34, 0x56][1]? = some 0x34 ∧
      [(0x12 : Byte), 0x34, 0x56][2]? = some 0x56 ∧ (0x12 : Byte) ≠ 0x13 := by decide

/-- A bare header, the shortest buffer, and a whole chunk report. -/
theorem test_witness_VerifyEquivalentFormAndUniqueField :
    8 ≤ (chunkReport.take 8).length ∧ 8 ≤ chunkReport.length := by decide

/-- A changed field byte and a changed last byte. -/
theorem test_witness_VerifyDetectsEveryByteChange :
    verify chunkReport = true ∧ chunkReport[2]? = some 0xFB ∧ (0xFB : Byte) ≠ 0xFA ∧
      chunkReport[13]? = some 0xBB ∧ (0xBB : Byte) ≠ 0 := by decide

/-- The shortest legal report too; a body byte stored (the last that fits), and a zero after the body. -/
theorem test_witness_BuildLaysOutTheReport :
    idle.cfg.Legal ∧ ({ cfg with reportLen := 8 } : Params).Legal ∧
      (23 < [(1 : Byte)].length + 23 ∧ 8 + 23 < idle.cfg.reportLen) ∧
      (8 + [(1 : Byte)].length ≤ 31 ∧ 31 < idle.cfg.reportLen) := by decide

theorem test_witness_BuildThenVerifyAndParse :
    cfg.Legal ∧ (buildReport cfg 0x11 0x7F 3 [0xAA])[2]? ≠ some 0x77 ∧
      (buildReport cfg 0x11 0x7F 3 [0xAA])[3]? ≠ some 0x77 ∧ ({ cfg with reportLen := 1027 } : Params).Legal ∧
      cfg.reportLen ≤ 1027 ∧ (List.replicate 24 (0xFF : Byte)).length + headerSize ≤ cfg.reportLen := by decide

theorem test_witness_RequestIsTheDocumentedBytes : cfg.Legal ∧ cfg.reportId = 0x22 := by decide

theorem test_witness_ParseReadsTheHeaderFields : 8 ≤ (chunkReport.take 8).length := by decide

theorem test_witness_ParseOfAShortBufferIsRefused : (chunkReport.take 7).length < 8 ∧ ([] : List Byte).length < 8 := by
  decide

/-- A positive count, zero and a negative one. -/
theorem test_witness_QualifyIsTheFiveChecks :
    chunkReport.length = (14 : Int).toNat ∧ ([] : List Byte).length = (0 : Int).toNat ∧
      ([] : List Byte).length = (-1 : Int).toNat := by decide

/-- Both sides of `n < 12`. -/
theorem test_witness_SizedecReadsWidthAndHeight :
    sizeReport.length = (12 : Int).toNat ∧ (sizeReport.take 11).length = (11 : Int).toNat := by decide

/-- A chunk exactly backed, one a byte short, one with no room for an address. -/
theorem test_witness_ChunkIsMeasuredByTheLengthField :
    (chunkReport.length = (14 : Int).toNat ∧ (8 : Int) ≤ 14 ∧ 8 ≤ natLe16 chunkReport 4 % 1024 ∧
        ((natLe16 chunkReport 4 % 1024 : Nat) : Int) + 4 ≤ 14) ∧
      ((chunkReport.take 13).length = (13 : Int).toNat ∧
        (13 : Int) < ((natLe16 (chunkReport.take 13) 4 % 1024 : Nat) : Int) + 4) ∧
      ((chunkReport.set 4 7).length = (14 : Int).toNat ∧ natLe16 (chunkReport.set 4 7) 4 % 1024 < 8) := by decide

theorem test_witness_OperandsThatBreakTheirCountAreRefused :
    [(0 : Byte)].length ≠ (-1 : Int).toNat ∧
      ((List.replicate 33 (0 : Byte)).length = (33 : Int).toNat ∧ (idle.cfg.reportLen : Int) < 33) ∧
      ((chunkReport.take 7).length = (7 : Int).toNat ∧ (7 : Int) < 8) ∧
      idle.cfg.reportLen < 8 + (List.replicate 25 (0 : Byte)).length := by decide

/-- A chunk that ends at EXPECTED, and one byte more. -/
theorem test_witness_AccumStoresInRangeChunksOnly :
    ((6 : U32).toNat + [(1 : Byte), 2].length ≤
        (reading .capture).width.toNat * (reading .capture).height.toNat * 2) ∧
      ((reading .capture).width.toNat * (reading .capture).height.toNat * 2 <
        (6 : U32).toNat + [(1 : Byte), 2, 3].length) := by decide

/-- Two chunks that touch. -/
theorem test_witness_AccumOrderDoesNotMatterForDisjointChunks :
    (reading .capture).fb.wf = true ∧ (0 : U32).toNat + [(1 : Byte), 2].length ≤ (reading .capture).expected ∧
      (2 : U32).toNat + [(3 : Byte)].length ≤ (reading .capture).expected ∧
      ((next? (exec (.accum 0 [1, 2]) (reading .capture))).bind fun s1 => next? (exec (.accum 2 [3]) s1)).isSome ∧
      ((next? (exec (.accum 2 [3]) (reading .capture))).bind fun r1 => next? (exec (.accum 0 [1, 2]) r1)).isSome ∧
      (0 : U32).toNat + [(1 : Byte), 2].length ≤ (2 : U32).toNat := by decide

theorem test_witness_AccumOfTheSameChunkTwiceIsOnce :
    (reading .capture).fb.wf = true ∧ (next? (exec (.accum 0 [1, 2]) (reading .capture))).isSome := by decide

/-- No event yet, so any time will do. -/
theorem timeOk_idle (t : Nat) : TimeOk idle t := fun _ h => nomatch h

theorem timeOk_of_prev {s : State} {t0 t : Nat} (h : s.tPrev = some t0) (ht : t0 ≤ t) : TimeOk s t := by
  intro t1 h1
  rw [h] at h1
  cases h1
  exact ht

theorem test_witness_CapStartStartsACycleOrEndsTheSession :
    (TimeOk idle 0 ∧ idle.state = .idle ∧ ((0 : U16) = 0 ∨ (5 : U16) = 0)) ∧
      (TimeOk (failed .timedOut .noData) 2 ∧ (failed .timedOut .noData).state = .timedOut ∧
        (2 : U16) ≠ 0 ∧ (1 : U16) ≠ 0) :=
  ⟨⟨timeOk_idle 0, by decide⟩, timeOk_of_prev (t0 := 2) rfl (by decide), by decide⟩

theorem test_witness_QStartStartsAQuery :
    TimeOk (failed .complete .complete) 9 ∧ (failed .complete .complete).state = .complete :=
  ⟨timeOk_of_prev (t0 := 2) rfl (by decide), by decide⟩

/-- Exactly CMD_TIMEOUT_MS, and one more. -/
theorem test_witness_TxOkOpensCollectingOrTimesOut :
    (TimeOk (asking .capture) 1500 ∧ (asking .capture).state = .requesting ∧
        1500 - (asking .capture).tStart ≤ (asking .capture).cfg.cmdTimeoutMs) ∧
      (TimeOk (asking .query) 1501 ∧ (asking .query).state = .requesting ∧
        (asking .query).cfg.cmdTimeoutMs < 1501 - (asking .query).tStart) :=
  ⟨⟨timeOk_of_prev (t0 := 0) rfl (by decide), by decide⟩, timeOk_of_prev (t0 := 0) rfl (by decide), by decide⟩

theorem test_witness_TxFailEndsTheCycle :
    (TimeOk (asking .capture) 0 ∧ (asking .capture).state = .requesting ∧ (asking .capture).mode = .capture) ∧
      (TimeOk (asking .query) 0 ∧ (asking .query).state = .requesting ∧ (asking .query).mode = .query) :=
  ⟨⟨timeOk_of_prev (t0 := 0) rfl (by decide), by decide⟩, timeOk_of_prev (t0 := 0) rfl (by decide), by decide⟩

theorem test_witness_RxFatalIsDeviceError :
    TimeOk (reading .query) 1 ∧ (reading .query).state = .collecting :=
  ⟨timeOk_of_prev (t0 := 1) rfl (by decide), by decide⟩

/-- A chunk accepted before the deadline, one past it, one that covers the frame, and a read that is not used. -/
theorem test_witness_RxInCaptureModeUsesThePacketThenDecides :
    (reading .capture).state = .collecting ∧ (reading .capture).mode = .capture ∧
      chunkReport.length = (14 : Int).toNat ∧ (14 : Int) ≤ (reading .capture).cfg.reportLen ∧
      TimeOk (reading .capture) 1500 ∧ TimeOk (reading .capture) 1501 ∧
      qualify cfg 14 chunkReport 0x25 = true ∧ extractChunk 14 chunkReport = some ⟨0, 2, [0xAA, 0xBB]⟩ ∧
      (next? (exec (.rx 14 chunkReport 1501) { reading .capture with maxEnd := 8 })).map State.maxEnd = some 8 ∧
      qualify cfg 14 (chunkReport.set 2 0) 0x25 = false :=
  ⟨by decide, by decide, by decide, by decide, timeOk_of_prev (t0 := 1) rfl (by decide),
    timeOk_of_prev (t0 := 1) rfl (by decide), by decide⟩

/-- An answer at the deadline, none at it, none past it. -/
theorem test_witness_RxInQueryModeTakesTheFirstAnswer :
    (reading .query).state = .collecting ∧ (reading .query).mode = .query ∧
      (12 : Int) ≤ (reading .query).cfg.reportLen ∧ TimeOk (reading .query) 1500 ∧ TimeOk (reading .query) 1501 ∧
      (sizeReport.length = (12 : Int).toNat ∧ qualify cfg 12 sizeReport 0x02 = true) ∧
      ((sizeReport.take 11).length = (11 : Int).toNat ∧
        1500 - (reading .query).tStart ≤ (reading .query).cfg.cmdTimeoutMs ∧
        (reading .query).cfg.cmdTimeoutMs < 1501 - (reading .query).tStart) :=
  ⟨by decide, by decide, by decide, timeOk_of_prev (t0 := 1) rfl (by decide),
    timeOk_of_prev (t0 := 1) rfl (by decide), by decide⟩

theorem test_witness_EmptyReadIsNoDataYet :
    (0 : Int) ≤ 0 ∧ (-1 : Int) ≤ 0 ∧ (reading .capture).state = .collecting ∧
      ((reading .capture).mode = .capture → (reading .capture).maxEnd < (reading .capture).expected) ∧
      TimeOk (reading .capture) 1500 ∧ 1500 - (reading .capture).tStart ≤ (reading .capture).cfg.cmdTimeoutMs ∧
      TimeOk (reading .query) 1501 ∧ (reading .query).cfg.cmdTimeoutMs < 1501 - (reading .query).tStart ∧
      { reading .capture with maxEnd := 8 }.expected ≤ { reading .capture with maxEnd := 8 }.maxEnd :=
  ⟨by decide, by decide, by decide, by decide, timeOk_of_prev (t0 := 1) rfl (by decide), by decide,
    timeOk_of_prev (t0 := 1) rfl (by decide), by decide, by decide⟩

theorem test_witness_EventsWithoutARowChangeNothing :
    (TimeOk (failed .deviceError .deviceError) 2 ∧ (failed .deviceError .deviceError).state = .deviceError ∧
        (failed .deviceError .deviceError).state ≠ .requesting) ∧
      (TimeOk idle 0 ∧ idle.state ≠ .collecting ∧ WellFormed idle.cfg (.rx 14 chunkReport 0)) ∧
      (((0xE : BitVec 4) = 0xE ∨ (0xE : BitVec 4) = 0xF) ∧ ({ t := 5 } : OpArgs).t = 5 ∧
        ({ idle with port := [.frame (.op 0xE { t := 5 })] } : State).port = [.frame (.op 0xE { t := 5 })]) :=
  ⟨⟨timeOk_of_prev (t0 := 2) rfl (by decide), by decide⟩, ⟨timeOk_idle 0, by decide⟩, by decide⟩

/-- Just below the last timestamp, at it, and with no event since reset. -/
theorem test_witness_DecreasingTimestampsAreRefused :
    (reading .capture).tPrev = some 1 ∧ 0 < 1 ∧ eventTime (.rx 14 chunkReport 0) = some 0 ∧
      WellFormed (reading .capture).cfg (.rx 14 chunkReport 0) ∧ 1 ≤ 1 ∧ eventTime (.rxFatal 1) = some 1 ∧
      WellFormed (reading .capture).cfg (.rxFatal 1) ∧ idle.tPrev = none ∧ eventTime (.qStart 0) = some 0 ∧
      WellFormed idle.cfg (.qStart 0) := by decide

theorem test_witness_RequestRowsGiveTheRequest : idle.cfg.Legal := by decide

/-- The longest body that fits. -/
theorem test_witness_ResponseRowsAreTheReadThatCarriesThem :
    8 + (List.replicate 24 (0 : Byte)).length ≤ (reading .capture).cfg.reportLen ∧ TimeOk (reading .capture) 1 :=
  ⟨by decide, timeOk_of_prev (t0 := 1) rfl (by decide)⟩

/-- The answer 160 x 80 with status 1 and index 9, and the wildcard echo. -/
theorem test_witness_SysinfoResponseAnswersTheQuery :
    (reading .query).state = .collecting ∧ (reading .query).mode = .query ∧ TimeOk (reading .query) 3 ∧
      8 + [(0xA0 : Byte), 0, 0x50, 0].length ≤ (reading .query).cfg.reportLen ∧
      4 ≤ [(0xA0 : Byte), 0, 0x50, 0].length ∧ ((0 : Byte) = (reading .query).cfg.echo ∨ (0 : Byte) = 0) ∧
      (0x0E1C : U16) = csum (packHeader ⟨cfg.reportId, 0, 0, 1, 8, cfg.cmdSysinfo, 9⟩ ++ [0xA0, 0, 0x50, 0]) := by
  refine ⟨by decide, by decide, timeOk_of_prev (t0 := 1) rfl (by decide), by decide⟩

/-- The chunk that fills the frame. -/
theorem test_witness_ScreenbufResponseStoresItsChunk :
    (reading .capture).state = .collecting ∧ (reading .capture).mode = .capture ∧ TimeOk (reading .capture) 3 ∧
      [(0xAA : Byte), 0xBB].length + 8 < 1024 ∧
      12 + [(0xAA : Byte), 0xBB].length + [(0 : Byte)].length ≤ (reading .capture).cfg.reportLen ∧
      ((0x5A : Byte) = (reading .capture).cfg.echo ∨ (0x5A : Byte) = 0) ∧
      (6 : U32).toNat + [(0xAA : Byte), 0xBB].length ≤ (reading .capture).expected :=
  ⟨by decide, by decide, timeOk_of_prev (t0 := 1) rfl (by decide), by decide⟩

theorem test_witness_DecodeOfEncodeIsTheInstruction : cfg.cmdSysinfo ≠ cfg.cmdScreenbuf := by decide

theorem test_witness_WireFramesAreDecodedWithoutLoss :
    decode cfg (.wireOut [0x22, 0, 0x28, 0, 0x04, 0, 0x02, 0]) = .ok (.reqSysinfo 0 0x28 []) ∧
      decode cfg (.wireIn sizeReport 4) = .ok (.rspSysinfo 0x5A 0x5B1C 0 8 0 [0xA0, 0, 0x50, 0] 4) ∧
      decode cfg (.wireIn [1, 2] 4) = .ok (.rx 2 [1, 2] 4) ∧
      requestShape cfg [0x22, 0, 0x28, 0, 0x04, 0, 0x02, 0] ∧ ¬ requestShape cfg sizeReport ∧
      ¬ requestShape cfg (chunkReport.take 7) := by decide

theorem test_witness_AStepRunsTheDecodedInstruction :
    ({ idle with port := [.frame (.op 0x9 { t := 3 })] } : State).port = .frame (.op 0x9 { t := 3 }) :: [] ∧
      decode idle.cfg (.op 0x9 { t := 3 }) = .ok (.qStart 3) ∧ idle.port = [] := by decide

theorem test_witness_WellFormedOperationsComplete :
    WellFormed (reading .capture).cfg (.rx 14 chunkReport 5) ∧
      ∀ t, eventTime (.rx 14 chunkReport 5) = some t → TimeOk (reading .capture) t :=
  ⟨by decide, fun _ h => by cases h; exact timeOk_of_prev (t0 := 1) rfl (by decide)⟩

/-- A unit call, an event that is neither start nor read, and ACCUM. -/
theorem test_witness_EachRegisterHasItsWriters :
    (next? (exec (.txOk 1) (asking .capture))).isSome ∧ startEvent (.txOk 1) = false ∧ readEvent (.txOk 1) = false ∧
      (next? (exec (.accum 0 [1]) (reading .capture))).isSome ∧ sequencerEvent (.accum 0 [1]) = false := by decide

theorem test_witness_DonePulseMarksEntryOfATerminalState :
    ((next? (step { asking .capture with port := [.frame (.op 0xB { t := 2 })] })).map fun u =>
      (u.state, u.state.terminal, u.done)) = some (.deviceError, true, some .deviceError) ∧
      ((next? (step { asking .capture with port := [.reset cfg []] })).map fun u => (u.state, u.done)) =
        some (.idle, none) := by decide

theorem test_witness_StickyStatesAreLeftByResetOnly :
    (failed .deviceError .deviceError).state.sticky = true ∧
      (next? (step { failed .deviceError .deviceError with port := [.frame (.op 0x9 { t := 5 })] })).isSome := by
  decide

/-- The shortest legal report; and a reset that leaves DeviceError. -/
theorem test_witness_ResetGivesTheResetState :
    ({ cfg with reportLen := 8 } : Params).Legal ∧
      (failed .deviceError .deviceError).state = .deviceError ∧
      ((next? (step { failed .deviceError .deviceError with port := [.reset cfg [.op 0x9 {}]] })).map fun u =>
        (u.state, decide (u.state ≠ .deviceError))) = some (.idle, true) := by decide

theorem test_witness_ResetStateMeetsTheInvariants : cfg.Legal ∧ Params.standard.Legal := by decide

/-- A frame of four bytes with its first two written, coverage 2, while a capture runs. -/
def partway : State :=
  { reading .capture with height := 1, fb := [(0, 0xAA), (1, 0xBB)], maxEnd := 2, pktCount := 1 }

theorem partway_bufferInv : partway.BufferInv where
  legal := by decide
  fbWf := by decide
  fbInside := by
    intro a b h
    simp only [partway, Memory.get?] at h
    split at h
    · have : partway.expected = 4 := by decide
      omega
    · split at h
      · have : partway.expected = 4 := by decide
        omega
      · cases h
  maxEndLe := by decide
  txLength := by decide
  completeCovers := by decide

/-- The state in which a query asks. -/
theorem asking_controlInv : (asking .query).ControlInv where
  resultFits := by decide
  txValidIff := by decide
  txIsRequest := fun _ => rfl
  captureHasFrame := by decide
  runningElapsed := by decide
  runningQuery := by decide
  noAnswer := by decide
  queryOk := by decide
  queryNone := by decide
  partialCovers := by decide
  startBeforeLast := by decide
  lastBeforePrev := fun _ _ => Nat.zero_le _
  noEventYet := fun h => nomatch h

/-- The chunk AA BB at address 0 arrives on the wire. -/
theorem test_witness_EveryStepKeepsTheBufferInvariant :
    ({ partway with port := [.frame (.wireIn chunkReport 5)] } : State).BufferInv ∧
      ((next? (step { partway with port := [.frame (.wireIn chunkReport 5)] })).map State.pktCount) = some 2 := by
  obtain ⟨h1, h2, h3, h4, h5, h6⟩ := partway_bufferInv
  exact ⟨⟨h1, h2, h3, h4, h5, h6⟩, by decide⟩

theorem test_witness_EveryStepKeepsTheControlInvariant :
    ({ asking .query with port := [.frame (.op 0xA { t := 5 })] } : State).ControlInv ∧
      ((next? (step { asking .query with port := [.frame (.op 0xA { t := 5 })] })).map State.state) =
        some .collecting := by
  obtain ⟨h1, h2, h3, h4, h5, h6, h7, h8, h9, h10, h11, h12, h13⟩ := asking_controlInv
  exact ⟨⟨h1, h2, h3, h4, h5, h6, h7, h8, h9, h10, h11, h12, h13⟩, by decide⟩

theorem test_witness_CoverageEndsACaptureInItsOwnStep :
    partway.Uncovered ∧ partway.state = .collecting ∧ partway.mode = .capture ∧
      (next? (exec (.rx 14 chunkReport 5) partway)).isSome ∧ (∀ a d, Instr.rx 14 chunkReport 5 ≠ .accum a d) :=
  ⟨fun _ _ => by decide, by decide, by decide, by decide, fun _ _ h => nomatch h⟩

/-- The three ends of a capture: full coverage, some coverage past the deadline, none past it. -/
theorem test_witness_AFinishedCaptureHasItsStatistics :
    partway.BufferInv ∧ partway.state = .collecting ∧ partway.mode = .capture ∧
      ((next? (exec (.rx 0 [] 1501) partway)).map fun u => (u.state, u.result)) = some (.timedOut, .partialFrame) ∧
      ((next? (exec (.rx 0 [] 1501) { partway with maxEnd := 0 })).map State.result) = some .noData ∧
      ((next? (exec (.rx 0 [] 5) { partway with maxEnd := 4 })).map State.result) = some .complete :=
  ⟨partway_bufferInv, by decide⟩

theorem test_witness_TheDeadlineEndsEveryCycle :
    (TimeOk (asking .query) 1501 ∧ (asking .query).cfg.cmdTimeoutMs < 1501 - (asking .query).tStart ∧
        (asking .query).state = .requesting) ∧
      (TimeOk partway 1501 ∧ partway.cfg.cmdTimeoutMs < 1501 - partway.tStart ∧ partway.state = .collecting ∧
        WellFormed partway.cfg (.rx 14 chunkReport 1501)) :=
  ⟨⟨timeOk_of_prev (t0 := 0) rfl (by decide), by decide⟩, timeOk_of_prev (t0 := 1) rfl (by decide), by decide⟩

/-- ACCUM overwrites the byte AA at offset 0; a read of its own report overwrites the byte 11 there. -/
theorem test_witness_FrameSurvivesUntilOverwrittenOrReplaced :
    ((next? (exec (.accum 0 [0x11]) partway)).map fun u => u.fbByte 0) = some 0x11 ∧ partway.fbByte 0 = 0xAA ∧
      ((next? (exec (.rx 14 chunkReport 5) { partway with fb := [(0, 0x11)] })).map fun u => u.fbByte 0) =
        some 0xAA ∧
      ({ partway with fb := [(0, 0x11)] } : State).fbByte 0 = 0x11 ∧
      readReport cfg (.rx 14 chunkReport 5) = some (14, chunkReport) ∧
      readReport cfg (.rspScreenbuf 0x5A 0x15FB 0 10 0 [0, 0, 0, 0, 0xAA, 0xBB] 5) = some (14, chunkReport) := by
  decide

/-- The last byte of the frame at rest; a register at rest and while a cycle runs. -/
theorem test_witness_HostReadsTheFrameOnlyAtRest :
    ({ failed .timedOut .noData with port := [.readFb 7] } : State).port = .readFb 7 :: [] ∧
      (failed .timedOut .noData).state.running = false ∧
      7 < (failed .timedOut .noData).width.toNat * (failed .timedOut .noData).height.toNat * 2 ∧
      ({ partway with port := [.readRegister 9] } : State).port = .readRegister 9 :: [] ∧
      partway.state = .collecting := by decide

theorem test_witness_RegisterPortGivesTheCodes :
    ({ partway with port := [.readRegister 0] } : State).port = .readRegister 0 :: [] ∧
      ({ partway with port := [.readRegister 24] } : State).port = .readRegister 24 :: [] ∧
      2 = (stateCode partway.state).toNat ∧ 10 = partway.cfg.idleBreakMs := by decide

theorem test_witness_TransportReadsTheStandingRequest :
    (({ asking .query with port := [.readTx] } : State).port = .readTx :: [] ∧
        ({ asking .query with port := [.readTx] } : State).ControlInv ∧ (asking .query).txValid = true) ∧
      ({ idle with port := [.readTx] } : State).txValid = false := by
  obtain ⟨h1, h2, h3, h4, h5, h6, h7, h8, h9, h10, h11, h12, h13⟩ := asking_controlInv
  exact ⟨⟨rfl, ⟨h1, h2, h3, h4, h5, h6, h7, h8, h9, h10, h11, h12, h13⟩, by decide⟩, by decide⟩

/-- The first number past the configuration registers, and the first offset past the frame. -/
theorem test_witness_ReadsOfWhatIsNotThereStop :
    (25 ≤ 25 ∧ ({ idle with port := [.readRegister 25] } : State).port = .readRegister 25 :: []) ∧
      ((failed .timedOut .noData).state.running = false ∧
        (failed .timedOut .noData).width.toNat * (failed .timedOut .noData).height.toNat * 2 ≤ 8 ∧
        ({ failed .timedOut .noData with port := [.readFb 8] } : State).port = .readFb 8 :: []) ∧
      ({ idle with port := [.readRegister 8] } : State).port = .readRegister 8 :: [] := by decide

/-- A body that fills the report and one a byte longer; a chunk; a report exactly filled; the shortest and the longest
report of the third clause; the largest frame. -/
theorem test_witness_ReportCapacitiesBoundEveryChunk :
    (cfg.Legal ∧ cfg.bodyCap ≤ (List.replicate 24 (1 : Byte)).length ∧
        cfg.bodyCap ≤ (List.replicate 25 (1 : Byte)).length) ∧
      (chunkReport.length = (14 : Int).toNat ∧ (14 : Int) ≤ cfg.reportLen ∧
        extractChunk 14 chunkReport = some ⟨0, 2, [0xAA, 0xBB]⟩) ∧
      (12 ≤ cfg.reportLen ∧ cfg.reportLen ≤ 1027 ∧ (List.replicate 20 (1 : Byte)).length = cfg.dataCap) ∧
      ([] : List Byte).length = ({ cfg with reportLen := 12 } : Params).dataCap ∧
      (List.replicate 1015 (1 : Byte)).length = ({ cfg with reportLen := 1027 } : Params).dataCap ∧
      ({ idle with width := 0xFFFF, height := 0xFFFF } : State).width = 0xFFFF := by decide +kernel

/-- A late unassigned code, an empty outbound report and a response laid outbound, and REPORT_LEN one below the bound. -/
theorem test_witness_InputsOutsideTheSpecAreRefused :
    (({ partway with port := [.frame (.op 0xF {})] } : State).port = .frame (.op 0xF {}) :: [] ∧
        partway.tPrev = some 1 ∧ ({} : OpArgs).t < 1) ∧
      (({ idle with port := [.frame (.wireOut [])] } : State).port = .frame (.wireOut []) :: [] ∧
        ¬ requestShape idle.cfg [] ∧ ¬ requestShape idle.cfg sizeReport) ∧
      ({ idle with port := [.reset { cfg with reportLen := 7 } []] } : State).port =
        .reset { cfg with reportLen := 7 } [] :: [] ∧
      ({ cfg with reportLen := 7 } : Params).reportLen < 8 := by decide

end Sys2Proof.Tests
end

section
/-! The scope of the block (00_scope.md): what a step does with the oldest input, the reset state, and what one report
can carry. -/

namespace Sys2Proof.Machine

/-! ### The step, by the oldest input -/

theorem step_of_port_nil {s : State} (h : s.port = []) : step s = .next s.openStep := by
  simp only [step, takeStep, h]

theorem step_of_port_cons {s : State} {i : Input} {rest : List Input} (h : s.port = i :: rest) :
    step s = takeInput i { s.openStep with port := rest } := by
  simp only [step, takeStep, h]

theorem takeFrame_of_decode_ok {s : State} {f : Frame} {i : Instr} (h : decode s.cfg f = .ok i) :
    takeFrame f s = exec i s := by
  simp only [takeFrame, h]

/-- An unassigned op code is no operation; what is left of it is an event that changes nothing (30_encoding.md R63). -/
theorem takeFrame_of_unassignedOp {s : State} {code : BitVec 4} {a : OpArgs}
    (h : decodeOp code a = .error (.unassignedOp code)) :
    takeFrame (.op code a) s = onEvent a.t s id := by
  simp only [takeFrame, decode, h]

theorem takeFrame_of_noReportKind {s : State} {f : Frame} (h : decode s.cfg f = .error .noReportKind) :
    takeFrame f s = .refused .noReportKind := by
  simp only [takeFrame, h]

theorem takeReset_of_not_legal {p : Params} (h : ¬ p.Legal) (s : State) :
    takeReset p s = .refused .illegalParameters := by
  simp only [takeReset, if_neg h]

/-! ### Frames that are no operation -/

theorem decodeOp_unassigned {code : BitVec 4} (h : code = 0xE ∨ code = 0xF) (a : OpArgs) :
    decodeOp code a = .error (.unassignedOp code) := by
  rcases h with rfl | rfl <;> rfl

/-- The two request rows of 30_encoding.md R61 together are the shape of a request. -/
theorem requestShape_iff_meetsRow (p : Params) (B : List Byte) :
    requestShape p B ↔
      meetsRow reqMask (reqMatch p.reportId p.cmdSysinfo) B = true ∨
        meetsRow reqMask (reqMatch p.reportId p.cmdScreenbuf) B = true := by
  simp only [meetsRow_req, requestShape, byteAt, headerSize]
  tauto

theorem decodeOut_of_not_requestShape {p : Params} {B : List Byte} (h : ¬ requestShape p B) :
    decodeOut p B = .error .noReportKind := by
  obtain ⟨hs, hb⟩ := not_or.1 (mt (requestShape_iff_meetsRow p B).2 h)
  simp only [decodeOut, if_neg hs, if_neg hb]

/-! ### The reset state -/

theorem resetWith_bufferInv {p : Params} (hp : p.Legal) : (State.resetWith p).BufferInv where
  legal := hp
  fbWf := rfl
  fbInside := by simp
  maxEndLe := Nat.zero_le _
  txLength := by simp
  completeCovers := by simp

theorem resetWith_controlInv (p : Params) : (State.resetWith p).ControlInv where
  resultFits := rfl
  txValidIff := by simp
  txIsRequest := by simp
  captureHasFrame := by simp [SeqState.running]
  runningElapsed := by simp
  runningQuery := by simp
  noAnswer := by simp
  queryOk := by simp
  queryNone := by simp
  partialCovers := by simp
  startBeforeLast := Nat.le_refl _
  lastBeforePrev := by simp
  noEventYet := by simp

/-! ### What one report can carry -/

theorem Params.bodyCap_add_eight {p : Params} (hp : p.Legal) : p.bodyCap + 8 = p.reportLen :=
  Nat.sub_add_cancel hp

/-- A body that fills the report leaves no room for padding. -/
theorem layReport_of_full {p : Params} {body : List Byte} (h : p.bodyCap ≤ body.length) (hd : ReportHeader) :
    layReport p hd body = packHeader hd ++ body.take p.bodyCap := by
  simp [layReport, Nat.sub_eq_zero_of_le h]

/-- A built report is the header with the length field of the whole body, then what fits of a body that fills it. -/
theorem buildReport_of_full {p : Params} {body : List Byte} (h : p.bodyCap ≤ body.length) (e c ix : Byte) :
    ∃ hd : ReportHeader, hd.len = BitVec.ofNat 10 (body.length + 4) ∧
      buildReport p e c ix body = packHeader hd ++ body.take p.bodyCap :=
  ⟨_, rfl, layReport_of_full h _⟩

/-! ### The chunk extractor -/

/-- Everything a chunk can be: the length field is at least 8, the received bytes back it, and it measures the
chunk (42_frame_accumulator.md R96). -/
theorem extractChunk_eq_some {n : Int} {B : List Byte} {c : Chunk} :
    extractChunk n B = some c ↔
      8 ≤ (headerOf B).len.toNat ∧ ((headerOf B).len.toNat : Int) + 4 ≤ n ∧
        c = ⟨le32 B 8, (headerOf B).len.toNat - 8, (B.drop 12).take ((headerOf B).len.toNat - 8)⟩ := by
  simp only [extractChunk]
  split
  case isTrue hshort => exact iff_of_false nofun fun ⟨hlen, _⟩ => by omega
  case isFalse hlen =>
    split
    case isTrue hunbacked => exact iff_of_false nofun fun ⟨_, hfit, _⟩ => by omega
    case isFalse hfit =>
      rw [Option.some.injEq, eq_comm]
      exact ⟨fun hc => ⟨by omega, by omega, hc⟩, fun ⟨_, _, hc⟩ => hc⟩

/-- The four bytes of an address read back as the address (20_memory.md R36). -/
theorem le32_le32bytes (a : U32) (rest : List Byte) : le32 (le32bytes a ++ rest) 0 = a := by
  apply BitVec.eq_of_toNat_eq
  have ha := a.isLt
  simp only [le32_toNat, le16_toNat, byteAt, le32bytes, List.cons_append, List.getD_cons_zero,
    List.getD_cons_succ, BitVec.toNat_setWidth, BitVec.toNat_ushiftRight, Nat.shiftRight_eq_div_pow]
  omega

theorem le32_packHeader_append (hd : ReportHeader) (rest : List Byte) :
    le32 (packHeader hd ++ rest) 8 = le32 rest 0 := rfl

/-- A chunk of a read that fits in a report fits in DATA_CAP bytes, and all its bytes were received. -/
theorem extractChunk_le_dataCap {p : Params} {n : Int} {B : List Byte} {c : Chunk} (hB : B.length = n.toNat)
    (hn : n ≤ (p.reportLen : Int)) (h : extractChunk n B = some c) :
    p.dataCap + 4 = p.bodyCap ∧ c.data.length = c.dlen ∧ c.dlen ≤ p.dataCap := by
  obtain ⟨hlen, hfit, rfl⟩ := extractChunk_eq_some.1 h
  simp only [Params.dataCap, Params.bodyCap, headerSize, List.length_take, List.length_drop]
  omega

/-- A report that an address and its data fill exactly gives both back, as long as the 10-bit length field holds
their length. -/
theorem extractChunk_buildReport {p : Params} (hlo : 12 ≤ p.reportLen) (hhi : p.reportLen ≤ 1027) (e c ix : Byte)
    (addr : U32) {data : List Byte} (hd : data.length = p.dataCap) :
    extractChunk (p.reportLen : Int) (buildReport p e c ix (le32bytes addr ++ data)) =
      some ⟨addr, p.dataCap, data⟩ := by
  have hcap : p.dataCap + 12 = p.reportLen := by
    simp only [Params.dataCap, Params.bodyCap, headerSize]; omega
  have hbody : (le32bytes addr ++ data).length = p.bodyCap := by
    simp only [List.length_append, le32bytes, List.length_cons, List.length_nil, Params.bodyCap, headerSize]; omega
  obtain ⟨hdr, hlen, hrep⟩ := buildReport_of_full hbody.ge e c ix
  have hlenNat : hdr.len.toNat = p.dataCap + 8 := by
    rw [hlen, hbody, BitVec.toNat_ofNat]
    simp only [Params.bodyCap, headerSize]; omega
  have hdata : (packHeader hdr ++ (le32bytes addr ++ data)).drop 12 = data := rfl
  rw [hrep, List.take_of_length_le hbody.le, extractChunk_eq_some, headerOf_packHeader_append, hlenNat,
    le32_packHeader_append, le32_le32bytes, hdata, Nat.add_sub_cancel, List.take_of_length_le hd.le]
  exact ⟨by omega, by omega, rfl⟩

/-! ### EXPECTED -/

/-- EXPECTED is at most that of the largest frame, 65535 by 65535 (00_scope.md R5). -/
theorem State.expected_le (s : State) : s.expected ≤ 8589672450 := by
  have hw : s.width.toNat ≤ 65535 := Nat.le_of_lt_succ s.width.isLt
  have hh : s.height.toNat ≤ 65535 := Nat.le_of_lt_succ s.height.isLt
  exact Nat.mul_le_mul_right 2 (Nat.mul_le_mul hw hh)

theorem State.expected_largest {s : State} (hw : s.width = 0xFFFF) (hh : s.height = 0xFFFF) :
    s.expected = 8589672450 := by
  simp [State.expected, hw, hh]

end Sys2Proof.Machine

namespace Sys2Proof.Proofs

open Sys2Proof.Machine

/-- Settles O57: BUILD and CHUNK by what they lay out and read at a report that is full. -/
theorem reportCapacitiesBoundEveryChunk : Obligations.ReportCapacitiesBoundEveryChunk := by
  refine ⟨fun p e c ix body hp hbody => ⟨Params.bodyCap_add_eight hp, ?_⟩,
    fun p n B c hB hn h => extractChunk_le_dataCap hB hn h,
    fun p e c ix addr data hlo hhi hd => extractChunk_buildReport hlo hhi e c ix addr hd,
    ⟨rfl, rfl⟩,
    fun s => ⟨rfl, s.expected_le, fun hw hh => ?_⟩⟩
  · obtain ⟨hdr, -, hrep⟩ := buildReport_of_full hbody e c ix
    rw [hrep, drop_packHeader_append]
  · have h := State.expected_largest hw hh
    exact ⟨h, by omega⟩

/-- Settles O38, by the step's equation for each shape of the port. -/
theorem aStepRunsTheDecodedInstruction : Obligations.AStepRunsTheDecodedInstruction := by
  refine fun s => ⟨fun f rest i hport hdec => ?_, step_of_port_nil⟩
  rw [step_of_port_cons hport]
  exact takeFrame_of_decode_ok hdec

/-- Settles O45, by the field lemmas of the reset state and the source's default parameters. -/
theorem resetStateValues : Obligations.ResetStateValues := by
  simp [Obligations.ResetStateValues, State.reset, Params.standard]

/-- Settles O46; the source's default parameters are legal. -/
theorem resetStateMeetsTheInvariants : Obligations.ResetStateMeetsTheInvariants :=
  ⟨fun p hp => ⟨resetWith_bufferInv hp, resetWith_controlInv p⟩,
    resetWith_bufferInv (by decide), resetWith_controlInv _⟩

/-- Settles O58: each input reaches its own refusal through the step's equation for a non-empty port. -/
theorem inputsOutsideTheSpecAreRefused : Obligations.InputsOutsideTheSpecAreRefused := by
  refine fun s rest => ⟨fun code a t0 hcode hport hprev hlt => ?_, fun B hport hB => ?_, fun p lost hport hp => ?_⟩
  · have late : ¬ TimeOk { s.openStep with port := rest } a.t := fun h => absurd (h t0 hprev) (by omega)
    rw [step_of_port_cons hport, takeInput, takeFrame_of_unassignedOp (decodeOp_unassigned hcode a)]
    exact onEvent_of_not_timeOk late id
  · rw [step_of_port_cons hport]
    exact takeFrame_of_noReportKind (decodeOut_of_not_requestShape hB)
  · rw [step_of_port_cons hport]
    exact takeReset_of_not_legal (Nat.not_le.2 hp) _

end Sys2Proof.Proofs
end

section
/-! The state of the block (10_state.md): what an operation and a step can do, said once, and from it the two
invariants, the writers of each register, the DONE pulse, reset, and the host's and the transport's reads. -/

namespace Sys2Proof.Machine

/-! ### What an operation does: an event, ACCUM, or a unit -/

/-- The effect of an event at the time `t`, once its timestamp is taken (43_sequencer.md R112 to R129); an operation
that is no event has none. `exec_of_event` ties it to `exec`. -/
def effectOf (i : Instr) (t : Nat) (s : State) : State :=
  match i with
  | .capStart w h _ => capStartEffect w h t s
  | .qStart _ => qStartEffect t s
  | .txOk _ => txOkEffect t s
  | .txFail _ => txFailEffect t s
  | .rxFatal _ => rxFatalEffect t s
  | i =>
    match readReport s.cfg i with
    | some (n, B) => rxEffect n B t s
    | none => s

/-- An event is its effect behind two guards: its operands and its timestamp. -/
theorem exec_of_event {i : Instr} {t : Nat} (h : eventTime i = some t) (s : State) :
    exec i s = whenWellFormed i s (onEvent t s (effectOf i t)) := by
  cases i <;> cases h <;> rfl

theorem exec_parse (B : List Byte) (s : State) :
    exec (.parse B) s = whenWellFormed (.parse B) s (giveResult (.header (headerOf B)) s) := by
  change execParse B s = _
  by_cases hB : B.length < headerSize
  · have hdef : (Instr.parse B).defect s.cfg = some .headerTooShort := by simp only [Instr.defect, if_pos hB]
    simp only [execParse, parseHeader_none hB, whenWellFormed_defect hdef]
  · have hwf : WellFormed s.cfg (.parse B) := by simp only [WellFormed, Instr.defect, if_neg hB]
    simp only [execParse, parseHeader_some (Nat.not_lt.1 hB), whenWellFormed_of hwf]

/-- An operation that is no event gives a result behind the guard of its operands, from the state itself or, for
ACCUM, from the state with the chunk taken. -/
theorem exec_of_not_event {i : Instr} (h : eventTime i = none) (s : State) :
    ∃ o v, exec i s = whenWellFormed i s (giveResult o v) ∧
      (v = s ∨ ∃ a d, i = .accum a d ∧ v = (accumulate a d s).1) := by
  cases i <;> cases h
  case accum a d => exact ⟨_, _, rfl, .inr ⟨a, d, rfl, rfl⟩⟩
  case parse B => exact ⟨_, _, exec_parse B s, .inl rfl⟩
  all_goals exact ⟨_, _, rfl, .inl rfl⟩

/-- Everything an operation can answer with a next state. -/
theorem exec_next_cases {i : Instr} {s u : State} (h : exec i s = .next u) :
    (∃ o, u = { s with out := some o }) ∨
    (∃ a d o, i = .accum a d ∧ u = { (accumulate a d s).1 with out := some o }) ∨
    (∃ t, eventTime i = some t ∧ TimeOk s t ∧ u = effectOf i t { s with tPrev := some t }) := by
  cases ht : eventTime i with
  | some t =>
    rw [exec_of_event ht, whenWellFormed_next, onEvent_next] at h
    exact .inr (.inr ⟨t, rfl, h.2⟩)
  | none =>
    obtain ⟨o, v, he, hv⟩ := exec_of_not_event ht s
    rw [he, whenWellFormed_next, giveResult_next] at h
    obtain rfl := h.2
    rcases hv with rfl | ⟨a, d, hi, rfl⟩
    · exact .inl ⟨o, rfl⟩
    · exact .inr (.inl ⟨a, d, o, hi, rfl⟩)

/-- Operands outside an operation's definition are refused by the name of the first check they fail. -/
theorem exec_of_defect {i : Instr} {s : State} {why : IllFormed} (h : i.defect s.cfg = some why) :
    exec i s = .refused (.illFormed why) := by
  cases ht : eventTime i with
  | some t => rw [exec_of_event ht, whenWellFormed_defect h]
  | none =>
    obtain ⟨o, v, he, -⟩ := exec_of_not_event ht s
    rw [he, whenWellFormed_defect h]

theorem exec_completes {i : Instr} {s : State} (hi : WellFormed s.cfg i)
    (ht : ∀ t, eventTime i = some t → TimeOk s t) : ∃ u, exec i s = .next u := by
  cases he : eventTime i with
  | some t => exact ⟨_, by rw [exec_of_event he, whenWellFormed_of hi, onEvent_of_timeOk (ht t he)]⟩
  | none =>
    obtain ⟨o, v, hx, -⟩ := exec_of_not_event he s
    exact ⟨_, by rw [hx, whenWellFormed_of hi, giveResult]⟩

/-! ### What an event does to the state -/

/-- What a read has done to the state before the end of the cycle is decided: nothing, a qualifying report counted, or
its chunk stored (43_sequencer.md R116, R118, R128). -/
inductive Received (t : Nat) (s : State) : State → Prop where
  | nothing : Received t s s
  | counted (k : Nat) (hs : s.state = .collecting) : Received t s { s with pktCount := k }
  | stored (k addr : Nat) (data : List Byte) (hs : s.state = .collecting) (hm : s.mode = .capture)
      (hr : addr + data.length ≤ s.expected) :
      Received t s { s with pktCount := k, tLast := t, fb := s.fb.writeBytes addr data,
                            maxEnd := max s.maxEnd (addr + data.length) }

/-- How a cycle ends without an answer to a query: the STATE and RESULT, with what they ask of the state
(60_exceptions.md R140, 43_sequencer.md R114, R115, R119 to R122, R128, R129). -/
inductive Ends (s : State) : SeqState → CycleResult → Prop where
  | covered (hm : s.mode = .capture) (hc : s.expected ≤ s.maxEnd) : Ends s .complete .complete
  | partly (hm : s.mode = .capture) (hpos : 0 < s.maxEnd) : Ends s .timedOut .partialFrame
  | empty (hm : s.mode = .capture) : Ends s .timedOut .noData
  | unanswered (hm : s.mode = .query) : Ends s .timedOut .queryNone
  | failed : Ends s .deviceError .deviceError

/-- Everything an event at the time `t` can do to the state (43_sequencer.md R110 to R129). -/
inductive EventStep (t : Nat) (s : State) : State → Prop where
  | wrongDimensions (hs : s.state.acceptsStart = true) :
      EventStep t s { s with mode := .capture, state := .invalidDimensions, result := .invalidDimensions,
                             elapsed := 0, done := some .invalidDimensions }
  | beginCapture (w h : U16) (hs : s.state.acceptsStart = true) (hw : w ≠ 0) (hh : h ≠ 0) :
      EventStep t s (beginCycle .capture t { setDimensions w h s with maxEnd := 0 })
  | beginQuery (hs : s.state.acceptsStart = true) :
      EventStep t s (beginCycle .query t { s with qWidth := 0, qHeight := 0, qValid := false })
  | sent (hs : s.state = .requesting) : EventStep t s { s with txValid := false, state := .collecting }
  | goesOn {v : State} (hv : Received t s v) : EventStep t s v
  | ends {v : State} {st : SeqState} {r : CycleResult} (hs : s.state.running = true) (hv : Received t s v)
      (he : Ends v st r) : EventStep t s (endCycle st r t v)
  | answered (k : Nat) (w h : U16) (hs : s.state = .collecting) (hm : s.mode = .query) :
      EventStep t s (endCycle .complete .queryOk t
        { s with pktCount := k, qWidth := w, qHeight := h, qValid := true })

theorem usePacket_received {t : Nat} {s : State} (n : Int) (B : List Byte) (hs : s.state = .collecting)
    (hm : s.mode = .capture) : Received t s (usePacket n B t s) := by
  rcases usePacket_cases n B t s with ⟨-, he⟩ | ⟨-, -, he⟩ | ⟨c, -, -, hr, he⟩ <;> rw [he]
  · exact .nothing
  · exact .counted _ hs
  · exact .stored _ _ _ hs hm hr

theorem Received.state_eq {t : Nat} {s v : State} (h : Received t s v) : v.state = s.state := by cases h <;> rfl
theorem Received.mode_eq {t : Nat} {s v : State} (h : Received t s v) : v.mode = s.mode := by cases h <;> rfl
theorem Received.done_eq {t : Nat} {s v : State} (h : Received t s v) : v.done = s.done := by cases h <;> rfl

theorem EventStep.capStart (w h : U16) (t : Nat) (s : State) : EventStep t s (capStartEffect w h t s) := by
  rcases capStartEffect_cases w h t s with ⟨-, he⟩ | ⟨hs, -, he⟩ | ⟨hs, hw, hh, he⟩ <;> rw [he]
  · exact .goesOn .nothing
  · exact .wrongDimensions hs
  · exact .beginCapture w h hs hw hh

theorem EventStep.qStart (t : Nat) (s : State) : EventStep t s (qStartEffect t s) := by
  rcases qStartEffect_cases t s with ⟨-, he⟩ | ⟨hs, he⟩ <;> rw [he]
  · exact .goesOn .nothing
  · exact .beginQuery hs

theorem EventStep.txOk (t : Nat) (s : State) : EventStep t s (txOkEffect t s) := by
  rcases txOkEffect_cases t s with ⟨-, he⟩ | ⟨hs, -, hm, he⟩ | ⟨hs, -, hm, he⟩ | ⟨hs, -, he⟩ <;> rw [he]
  · exact .goesOn .nothing
  · exact .ends (running_iff.2 (.inl hs)) .nothing (.empty hm)
  · exact .ends (running_iff.2 (.inl hs)) .nothing (.unanswered hm)
  · exact .sent hs

theorem EventStep.txFail (t : Nat) (s : State) : EventStep t s (txFailEffect t s) := by
  rcases txFailEffect_cases t s with ⟨-, he⟩ | ⟨hs, hm, he⟩ | ⟨hs, hm, he⟩ <;> rw [he]
  · exact .goesOn .nothing
  · exact .ends (running_iff.2 (.inl hs)) .nothing .failed
  · exact .ends (running_iff.2 (.inl hs)) .nothing (.unanswered hm)

theorem EventStep.rxFatal (t : Nat) (s : State) : EventStep t s (rxFatalEffect t s) := by
  rcases rxFatalEffect_cases t s with ⟨-, he⟩ | ⟨hs, he⟩ <;> rw [he]
  · exact .goesOn .nothing
  · exact .ends (running_iff.2 (.inr hs)) .nothing .failed

theorem EventStep.captureRead (n : Int) (B : List Byte) (t : Nat) {s : State} (hs : s.state = .collecting)
    (hm : s.mode = .capture) : EventStep t s (captureEnd n t (usePacket n B t s)) := by
  have hv : Received t s (usePacket n B t s) := usePacket_received n B hs hm
  have hrun := running_iff.2 (.inr hs)
  have hmv := hv.mode_eq.trans hm
  rcases captureEnd_cases n t (usePacket n B t s) with
    ⟨hc, he⟩ | ⟨-, -, hpos, he⟩ | ⟨-, -, -, he⟩ | ⟨-, -, he⟩ <;> rw [he]
  · exact .ends hrun hv (.covered hmv hc)
  · exact .ends hrun hv (.partly hmv hpos)
  · exact .ends hrun hv (.empty hmv)
  · exact .goesOn hv

theorem EventStep.queryRead (n : Int) (B : List Byte) (t : Nat) {s : State} (hs : s.state = .collecting)
    (hm : s.mode = .query) : EventStep t s (queryRead n B t s) := by
  rcases queryRead_cases n B t s with ⟨w, h, -, -, he⟩ | ⟨k, -, -, ⟨-, he⟩ | ⟨-, he⟩⟩ <;> rw [he]
  · exact .answered _ w h hs hm
  · exact .ends (running_iff.2 (.inr hs)) (.counted k hs) (.unanswered hm)
  · exact .goesOn (.counted k hs)

theorem EventStep.rx (n : Int) (B : List Byte) (t : Nat) (s : State) : EventStep t s (rxEffect n B t s) := by
  rcases rxEffect_cases n B t s with ⟨-, he⟩ | ⟨hs, hm, he⟩ | ⟨hs, hm, he⟩ <;> rw [he]
  · exact .goesOn .nothing
  · exact .captureRead n B t hs hm
  · exact .queryRead n B t hs hm

theorem EventStep.effectOf (i : Instr) (t : Nat) (s : State) : EventStep t s (effectOf i t s) := by
  cases i
  case capStart w h _ => exact .capStart w h t s
  case qStart => exact .qStart t s
  case txOk => exact .txOk t s
  case txFail => exact .txFail t s
  case rxFatal => exact .rxFatal t s
  case rx n B _ => exact .rx n B t s
  case rspSysinfo | rspScreenbuf => exact .rx _ _ t s
  all_goals exact .goesOn .nothing

/-- No event touches the parameters, the input port or the timestamp it was taken with, and none takes a frame buffer
back (10_state.md R20, R28). -/
theorem EventStep.frame {t : Nat} {s u : State} (h : EventStep t s u) :
    u.cfg = s.cfg ∧ u.port = s.port ∧ u.tPrev = s.tPrev ∧ s.fbGen ≤ u.fbGen := by
  cases h with
  | beginCapture w h _ _ _ =>
    refine ⟨by simp, by simp, by simp, ?_⟩
    simp only [beginCycle_fbGen, setDimensions_fbGen]
    split <;> omega
  | goesOn hv => cases hv <;> exact ⟨rfl, rfl, rfl, Nat.le_refl _⟩
  | ends _ hv _ => cases hv <;> exact ⟨rfl, rfl, rfl, Nat.le_refl _⟩
  | wrongDimensions | beginQuery | sent | answered => exact ⟨rfl, rfl, rfl, Nat.le_refl _⟩

/-- In a sticky STATE every event is ignored (43_sequencer.md R130). -/
theorem EventStep.eq_of_sticky {t : Nat} {s u : State} (h : EventStep t s u) (hs : s.state.sticky = true) :
    u = s := by
  cases h with
  | goesOn hv =>
    cases hv with
    | nothing => rfl
    | counted _ hc | stored _ _ _ hc => simp [hc, SeqState.sticky] at hs
  | wrongDimensions ha | beginCapture _ _ ha | beginQuery ha =>
    rcases acceptsStart_iff.1 ha with ha | ha | ha <;> simp [ha, SeqState.sticky] at hs
  | ends hr => rcases running_iff.1 hr with hr | hr <;> simp [hr, SeqState.sticky] at hs
  | sent hc | answered _ _ _ hc => simp [hc, SeqState.sticky] at hs

/-! ### What a step does -/

/-- Everything a step can answer with a next state: no input, a reset, a result on a port, ACCUM on its own, or an
event, an unassigned op code among them (10_state.md R24, 30_encoding.md R63, 70_reset_and_hazards.md R160). -/
inductive StepResult (s : State) : State → Prop where
  | idle (hp : s.port = []) : StepResult s s.openStep
  | reset {p : Params} {lost : List Frame} {rest : List Input} (hp : s.port = .reset p lost :: rest)
      (hl : p.Legal) : StepResult s { State.resetWith p with port := rest, fbGen := s.fbGen }
  | result (rest : List Input) (o : UnitOut) : StepResult s { s.openStep with port := rest, out := some o }
  | accum {f : Frame} {rest : List Input} {a : U32} {d : List Byte} (o : UnitOut) (hp : s.port = .frame f :: rest)
      (hd : decode s.cfg f = .ok (.accum a d)) :
      StepResult s { (accumulate a d { s.openStep with port := rest }).1 with out := some o }
  | event {u : State} {t : Nat} (rest : List Input) (ht : TimeOk s t)
      (he : EventStep t { s.openStep with port := rest, tPrev := some t } u) : StepResult s u

theorem StepResult.of_exec {s u : State} {f : Frame} {rest : List Input} {i : Instr}
    (hp : s.port = .frame f :: rest) (hd : decode s.cfg f = .ok i)
    (h : exec i { s.openStep with port := rest } = .next u) : StepResult s u := by
  rcases exec_next_cases h with ⟨o, rfl⟩ | ⟨a, d, o, rfl, rfl⟩ | ⟨t, -, ht, rfl⟩
  · exact .result rest o
  · exact .accum o hp hd
  · exact .event rest ht (.effectOf i t _)

/-- A frame is no operation for one of two reasons: its op code is unassigned, or its report is no request. -/
theorem decode_error_cases {p : Params} {f : Frame} {e : DecodeError} (h : decode p f = .error e) :
    (∃ code a, f = .op code a ∧ decodeOp code a = .error (.unassignedOp code)) ∨ e = .noReportKind := by
  cases f with
  | op code a =>
    refine .inl ⟨code, a, rfl, ?_⟩
    change decodeOp code a = .error e at h
    rw [h]
    simp only [decodeOp] at h
    split at h <;> cases h
    rfl
  | wireIn B t => cases h
  | wireOut B =>
    refine .inr ?_
    simp only [decode, decodeOut] at h
    split at h
    · cases h
    · split at h <;> cases h
      rfl

theorem StepResult.of_takeFrame {s u : State} {f : Frame} {rest : List Input} (hp : s.port = .frame f :: rest)
    (h : takeFrame f { s.openStep with port := rest } = .next u) : StepResult s u := by
  cases hd : decode s.cfg f with
  | ok i =>
    rw [takeFrame_of_decode_ok (s := { s.openStep with port := rest }) hd] at h
    exact .of_exec hp hd h
  | error e =>
    rcases decode_error_cases hd with ⟨code, a, rfl, ha⟩ | rfl
    · rw [takeFrame_of_unassignedOp ha, onEvent_next] at h
      obtain ⟨ht, rfl⟩ := h
      exact .event rest ht (.goesOn .nothing)
    · rw [takeFrame_of_noReportKind (s := { s.openStep with port := rest }) hd] at h
      cases h

/-! ### The host's and the transport's reads -/

/-- A register that is there, that the host may read and that does not move while a cycle runs. -/
theorem readRegister_of_value {s : State} {k v : Nat} (hv : registerValue s k = some v) (h8 : k ≠ 8)
    (hk : isStatistic k = false) : readRegister k s = giveResult (.register v) s := by
  simp only [readRegister, hv, if_neg h8, hk, Bool.false_and, Bool.false_eq_true, if_false]

theorem readRegister_of_none {s : State} {k : Nat} (hv : registerValue s k = none) :
    readRegister k s = .fault (.noSuchRegister k) := by
  simp only [readRegister, hv]

/-- Everything the host's read of a register can answer with a next state. -/
theorem readRegister_next {s u : State} {k : Nat} (h : readRegister k s = .next u) :
    ∃ v, registerValue s k = some v ∧ u = { s with out := some (.register v) } := by
  cases hv : registerValue s k with
  | none => rw [readRegister_of_none hv] at h; cases h
  | some v =>
    simp only [readRegister, hv] at h
    split at h
    · cases h
    · split at h
      · cases h
      · exact ⟨v, rfl, giveResult_next.1 h⟩

theorem readFb_of_outside {s : State} {a : Nat} (hs : s.state.running = false) (ha : s.expected ≤ a) :
    readFb a s = .fault (.fbOffset a) := by
  simp only [readFb, hs, Bool.false_eq_true, if_false, if_neg (Nat.not_lt.2 ha)]

/-- Everything the host's read of FB can answer with a next state. -/
theorem readFb_next {s u : State} {a : Nat} (h : readFb a s = .next u) :
    u = { s with out := some (.fbByte (s.fbByte a)) } := by
  simp only [readFb] at h
  split at h
  · cases h
  · split at h
    · exact giveResult_next.1 h
    · cases h

theorem readTx_of_txValid {s : State} (h : s.txValid = true) : readTx s = giveResult (.report s.tx) s := by
  simp only [readTx, h, if_true]

theorem readTx_of_not_txValid {s : State} (h : s.txValid = false) : readTx s = .refused .txNotValid := by
  simp only [readTx, h, Bool.false_eq_true, if_false]

/-- Everything the transport's read of TX can answer with a next state. -/
theorem readTx_next {s u : State} (h : readTx s = .next u) : u = { s with out := some (.report s.tx) } := by
  by_cases hv : s.txValid = true
  · rw [readTx_of_txValid hv] at h
    exact giveResult_next.1 h
  · rw [readTx_of_not_txValid (Bool.eq_false_iff.2 hv)] at h
    cases h

theorem takeReset_of_legal {p : Params} (h : p.Legal) (s : State) :
    takeReset p s = .next { State.resetWith p with port := s.port, fbGen := s.fbGen } := by
  simp only [takeReset, if_pos h]

theorem step_cases {s u : State} (h : step s = .next u) : StepResult s u := by
  rcases hp : s.port with _ | ⟨i, rest⟩
  · rw [step_of_port_nil hp] at h
    cases h
    exact .idle hp
  · rw [step_of_port_cons hp] at h
    cases i with
    | frame f => exact .of_takeFrame hp h
    | reset p lost =>
      by_cases hl : p.Legal
      · rw [takeInput, takeReset_of_legal hl] at h
        cases h
        exact .reset hp hl
      · rw [takeInput, takeReset_of_not_legal hl] at h
        cases h
    | readRegister k =>
      obtain ⟨v, -, rfl⟩ := readRegister_next h
      exact .result rest _
    | readFb a =>
      obtain rfl := readFb_next h
      exact .result rest _
    | readTx =>
      obtain rfl := readTx_next h
      exact .result rest _

/-! ### The buffer invariant -/

/-- The buffer invariant reads seven fields. -/
theorem State.BufferInv.congr {s u : State} (h : s.BufferInv) (hcfg : u.cfg = s.cfg) (hfb : u.fb = s.fb)
    (hw : u.width = s.width) (hh : u.height = s.height) (hm : u.maxEnd = s.maxEnd) (htx : u.tx = s.tx)
    (hr : u.result = .complete → s.result = .complete) : u.BufferInv := by
  have hexp : u.expected = s.expected := State.expected_congr hw hh
  exact {
    legal := hcfg ▸ h.legal
    fbWf := hfb ▸ h.fbWf
    fbInside := by simpa only [hfb, hexp] using h.fbInside
    maxEndLe := by simpa only [hm, hexp] using h.maxEndLe
    txLength := by simpa only [htx, hcfg] using h.txLength
    completeCovers := fun hc => by simpa only [hm, hexp] using h.completeCovers (hr hc) }

/-- A chunk stored in range keeps FB inside its size, and MAX_END (42_frame_accumulator.md R97, R98). -/
theorem State.BufferInv.store {s u : State} (h : s.BufferInv) {addr : Nat} {data : List Byte}
    (hr : addr + data.length ≤ s.expected)
    (hu : u = { s with pktCount := u.pktCount, tLast := u.tLast, out := u.out,
                       fb := s.fb.writeBytes addr data, maxEnd := max s.maxEnd (addr + data.length) }) :
    u.BufferInv := by
  rw [hu]
  exact {
    legal := h.legal
    fbWf := Memory.wf_writeBytes h.fbWf addr data
    fbInside := get?_writeBytes_inside h.fbInside hr
    maxEndLe := Nat.max_le.2 ⟨h.maxEndLe, hr⟩
    txLength := h.txLength
    completeCovers := fun hc => by
      have hcov : s.maxEnd = s.expected := h.completeCovers hc
      exact (Nat.max_eq_left (hcov ▸ hr)).trans hcov }

theorem State.BufferInv.received {t : Nat} {s v : State} (h : s.BufferInv) (hv : Received t s v) : v.BufferInv := by
  cases hv with
  | nothing => exact h
  | counted => exact h.congr rfl rfl rfl rfl rfl rfl id
  | stored _ _ _ _ _ hr => exact h.store hr rfl

/-- RESULT = Complete is given only at coverage, which MAX_END cannot pass (43_sequencer.md R124). -/
theorem State.BufferInv.endCycle {s : State} (h : s.BufferInv) {st : SeqState} {r : CycleResult} (he : Ends s st r)
    (t : Nat) : (endCycle st r t s).BufferInv := by
  cases he with
  | covered _ hc =>
    exact { h with completeCovers := fun _ => Nat.le_antisymm h.maxEndLe hc }
  | partly | empty | unanswered | failed => exact { h with completeCovers := nofun }

/-- The frame buffer of a new capture: the old one at the same dimensions, else an empty one (20_memory.md R31). -/
theorem State.BufferInv.newFrame {s : State} (hs : s.BufferInv) (w h : U16) :
    ({ setDimensions w h s with maxEnd := 0, result := .none } : State).BufferInv := by
  by_cases hwh : w = s.width ∧ h = s.height
  · rw [setDimensions, if_pos hwh]
    exact { hs with maxEndLe := Nat.zero_le _, completeCovers := nofun }
  · rw [setDimensions, if_neg hwh]
    exact { hs with fbWf := rfl, fbInside := nofun, maxEndLe := Nat.zero_le _, completeCovers := nofun }

/-- A start event clears RESULT and lays a request of REPORT_LEN bytes in TX (43_sequencer.md R112, R113). -/
theorem State.BufferInv.beginCycle {s : State} (h : ({ s with result := .none } : State).BufferInv) (m : Mode)
    (t : Nat) : (beginCycle m t s).BufferInv :=
  { h with txLength := buildReport_length h.legal _ _ _ _ }

theorem State.BufferInv.eventStep {t : Nat} {s u : State} (h : s.BufferInv) (he : EventStep t s u) :
    u.BufferInv := by
  cases he with
  | wrongDimensions => exact h.congr rfl rfl rfl rfl rfl rfl nofun
  | beginCapture w h' => exact State.BufferInv.beginCycle (h.newFrame w h') .capture t
  | beginQuery =>
    exact State.BufferInv.beginCycle (s := { s with qWidth := 0, qHeight := 0, qValid := false })
      (h.congr rfl rfl rfl rfl rfl rfl nofun) .query t
  | sent => exact h.congr rfl rfl rfl rfl rfl rfl id
  | goesOn hv => exact h.received hv
  | ends _ hv he => exact (h.received hv).endCycle he t
  | answered => exact h.congr rfl rfl rfl rfl rfl rfl nofun

theorem State.BufferInv.accumulate {s : State} (h : s.BufferInv) (addr : U32) (data : List Byte) :
    (accumulate addr data s).1.BufferInv := by
  rcases accumulate_cases addr data s with ⟨hr, he⟩ | ⟨-, he⟩ <;> rw [he]
  · exact h.store hr rfl
  · exact h

theorem State.BufferInv.step {s u : State} (h : s.BufferInv) (hu : StepResult s u) : u.BufferInv := by
  have taken : ∀ rest prev, ({ s.openStep with port := rest, tPrev := prev } : State).BufferInv :=
    fun _ _ => h.congr rfl rfl rfl rfl rfl rfl id
  cases hu with
  | idle => exact taken s.port s.tPrev
  | reset _ hl => exact (resetWith_bufferInv hl).congr rfl rfl rfl rfl rfl rfl id
  | result => exact h.congr rfl rfl rfl rfl rfl rfl id
  | @accum _ rest a d => exact ((taken rest s.tPrev).accumulate a d).congr rfl rfl rfl rfl rfl rfl id
  | event rest _ he => exact (taken rest _).eventStep he

/-! ### The control invariant -/

/-- Ports and results are no part of the control invariant. -/
theorem State.ControlInv.ports {s : State} (h : s.ControlInv) (done : Option CycleResult) (out : Option UnitOut)
    (port : List Input) : ({ s with done := done, out := out, port := port } : State).ControlInv :=
  { h with }

/-- A timestamp that does not decrease stands above every time of the cycle (10_state.md R17, R25). -/
theorem State.ControlInv.takeTime {s : State} (h : s.ControlInv) {t : Nat} (ht : TimeOk s t) :
    ({ s with tPrev := some t } : State).ControlInv :=
  { h with
    lastBeforePrev := by
      rintro _ ⟨⟩
      cases hp : s.tPrev with
      | none => exact (h.noEventYet hp).1 ▸ Nat.zero_le t
      | some t0 => exact Nat.le_trans (h.lastBeforePrev t0 hp) (ht t0 hp)
    noEventYet := nofun }

/-- Coverage may rise at any time: no register but MAX_END moves with FB (42_frame_accumulator.md R98). -/
theorem State.ControlInv.cover {s : State} (h : s.ControlInv) (fb : Memory) {e : Nat} (he : s.maxEnd ≤ e) :
    ({ s with fb := fb, maxEnd := e } : State).ControlInv :=
  { h with partialCovers := fun hr => Nat.lt_of_lt_of_le (h.partialCovers hr) he }

theorem State.ControlInv.accumulate {s : State} (h : s.ControlInv) (addr : U32) (data : List Byte) :
    (accumulate addr data s).1.ControlInv := by
  rcases accumulate_cases addr data s with ⟨-, he⟩ | ⟨-, he⟩ <;> rw [he]
  · exact h.cover _ (Nat.le_max_left _ _)
  · exact h

theorem State.ControlInv.received {t : Nat} {s v : State} (h : s.ControlInv) (ht : s.tPrev = some t)
    (hv : Received t s v) : v.ControlInv := by
  cases hv with
  | nothing => exact h
  | counted => exact { h with }
  | stored _ addr data =>
    have hlast : s.tLast ≤ t := h.lastBeforePrev t ht
    exact { h.cover (s.fb.writeBytes addr data) (Nat.le_max_left s.maxEnd (addr + data.length)) with
      startBeforeLast := Nat.le_trans h.startBeforeLast hlast
      lastBeforePrev := fun t' ht' => by cases ht.symm.trans ht'; exact Nat.le_refl t
      noEventYet := fun hn => nomatch ht.symm.trans hn }

theorem SeqState.not_running_of_terminal {st : SeqState} (h : st.terminal = true) : st.running = false := by
  cases st <;> cases h <;> rfl

/-- What an outcome asks of the registers that stand when the cycle ends (60_exceptions.md R140). -/
structure OutcomeFits (s : State) (st : SeqState) (r : CycleResult) : Prop where
  terminal : st.terminal = true
  resultFits : resultFits st s.mode r = true
  queryOk : r = .queryOk → s.qValid = true
  queryNone : r = .queryNone → s.qValid = false
  partialCovers : r = .partialFrame → 0 < s.maxEnd

/-- Each way a running cycle can end fits the registers; a query that runs has no answer yet (10_state.md R18). -/
theorem Ends.outcomeFits {s : State} {st : SeqState} {r : CycleResult} (h : Ends s st r) (hs : s.ControlInv)
    (hrun : s.state.running = true) : OutcomeFits s st r := by
  cases h with
  | covered hm => exact ⟨rfl, by rw [hm]; rfl, nofun, nofun, nofun⟩
  | partly hm hpos => exact ⟨rfl, by rw [hm]; rfl, nofun, nofun, fun _ => hpos⟩
  | empty hm => exact ⟨rfl, by rw [hm]; rfl, nofun, nofun, nofun⟩
  | unanswered hm => exact ⟨rfl, by rw [hm]; rfl, nofun, fun _ => hs.runningQuery hrun hm, nofun⟩
  | failed => exact ⟨rfl, rfl, nofun, nofun, nofun⟩

/-- A cycle that ends in an outcome that fits leaves the control invariant, whatever ran before: of the old registers
only the query's values and the times are read. -/
theorem OutcomeFits.controlInv_endCycle {t : Nat} {s : State} {st : SeqState} {r : CycleResult}
    (ho : OutcomeFits s st r) (ht : s.tPrev = some t) (hq : s.qValid = false → s.qWidth = 0 ∧ s.qHeight = 0)
    (hstart : s.tStart ≤ s.tLast) (hlast : s.tLast ≤ t) : (endCycle st r t s).ControlInv := by
  have hrest : st.running ≠ true := by simp [SeqState.not_running_of_terminal ho.terminal]
  exact {
    resultFits := ho.resultFits
    txValidIff := ⟨nofun, fun h => absurd (running_iff.2 (.inl h)) hrest⟩
    txIsRequest := nofun
    captureHasFrame := fun h => absurd h hrest
    runningElapsed := fun h => absurd h hrest
    runningQuery := fun h => absurd h hrest
    noAnswer := hq
    queryOk := ho.queryOk
    queryNone := ho.queryNone
    partialCovers := ho.partialCovers
    startBeforeLast := hstart
    lastBeforePrev := fun t' ht' => by cases ht.symm.trans ht'; exact hlast
    noEventYet := fun hn => nomatch ht.symm.trans hn }

/-- A start event meets the control invariant from every state whose dimensions and query registers are set for the
new mode: all the rest it writes itself (43_sequencer.md R112, R113). -/
theorem controlInv_beginCycle {t : Nat} {s : State} {m : Mode} (ht : s.tPrev = some t)
    (hq : s.qValid = false → s.qWidth = 0 ∧ s.qHeight = 0) (hcap : m = .capture → s.width ≠ 0 ∧ s.height ≠ 0)
    (hquery : m = .query → s.qValid = false) : (beginCycle m t s).ControlInv where
  resultFits := rfl
  txValidIff := ⟨fun _ => rfl, fun _ => rfl⟩
  txIsRequest := fun _ => rfl
  captureHasFrame := fun _ => hcap
  runningElapsed := fun _ => rfl
  runningQuery := fun _ => hquery
  noAnswer := hq
  queryOk := nofun
  queryNone := nofun
  partialCovers := nofun
  startBeforeLast := Nat.le_refl t
  lastBeforePrev := fun t' ht' => by cases ht.symm.trans ht'; exact Nat.le_refl t
  noEventYet := fun hn => nomatch ht.symm.trans hn

/-- A start event that is turned down for its dimensions is taken at rest, where TX_VALID is 0 (43_sequencer.md
R112). -/
theorem State.ControlInv.wrongDimensions {t : Nat} {s : State} (h : s.ControlInv) (ht : s.tPrev = some t)
    (hs : s.state.acceptsStart = true) :
    ({ s with mode := .capture, state := .invalidDimensions, result := .invalidDimensions, elapsed := 0,
              done := some .invalidDimensions } : State).ControlInv := by
  have htx : s.txValid ≠ true := fun hv => by simp [h.txValidIff.1 hv, SeqState.acceptsStart] at hs
  exact { h with
    resultFits := rfl
    txValidIff := ⟨fun hv => absurd hv htx, nofun⟩
    txIsRequest := fun hv => absurd hv htx
    captureHasFrame := nofun
    runningElapsed := fun _ => rfl
    runningQuery := nofun
    queryOk := nofun
    queryNone := nofun
    partialCovers := nofun
    noEventYet := fun hn => nomatch ht.symm.trans hn }

/-- The request is taken; the cycle runs on (43_sequencer.md R114). -/
theorem State.ControlInv.sent {t : Nat} {s : State} (h : s.ControlInv) (ht : s.tPrev = some t)
    (hs : s.state = .requesting) : ({ s with txValid := false, state := .collecting } : State).ControlInv := by
  have hrun : s.state.running = true := running_iff.2 (.inl hs)
  have hfit := h.resultFits
  rw [hs] at hfit
  exact { h with
    resultFits := hfit
    txValidIff := ⟨nofun, nofun⟩
    txIsRequest := nofun
    captureHasFrame := fun _ => h.captureHasFrame hrun
    runningElapsed := fun _ => h.runningElapsed hrun
    runningQuery := fun _ => h.runningQuery hrun
    noEventYet := fun hn => nomatch ht.symm.trans hn }

theorem Received.tPrev_eq {t : Nat} {s v : State} (h : Received t s v) : v.tPrev = s.tPrev := by cases h <;> rfl

theorem State.ControlInv.eventStep {t : Nat} {s u : State} (h : s.ControlInv) (ht : s.tPrev = some t)
    (he : EventStep t s u) : u.ControlInv := by
  cases he with
  | wrongDimensions hs => exact h.wrongDimensions ht hs
  | beginCapture w h' _ hw hh =>
    exact controlInv_beginCycle (by simpa using ht) (by simpa using h.noAnswer) (fun _ => by simpa using ⟨hw, hh⟩) nofun
  | beginQuery => exact controlInv_beginCycle ht (fun _ => ⟨rfl, rfl⟩) nofun (fun _ => rfl)
  | sent hs => exact h.sent ht hs
  | goesOn hv => exact h.received ht hv
  | @ends v _ _ hs hv he =>
    have hvi : v.ControlInv := h.received ht hv
    have hvt : v.tPrev = some t := hv.tPrev_eq.trans ht
    exact (he.outcomeFits hvi (hv.state_eq ▸ hs)).controlInv_endCycle hvt hvi.noAnswer hvi.startBeforeLast
      (hvi.lastBeforePrev t hvt)
  | answered k w h' _ hm =>
    have ho : OutcomeFits { s with pktCount := k, qWidth := w, qHeight := h', qValid := true } .complete .queryOk :=
      ⟨rfl, by simp only [hm]; rfl, fun _ => rfl, nofun, nofun⟩
    exact ho.controlInv_endCycle ht nofun h.startBeforeLast (h.lastBeforePrev t ht)

theorem State.ControlInv.step {s u : State} (h : s.ControlInv) (hu : StepResult s u) : u.ControlInv := by
  cases hu with
  | idle => exact h.ports _ _ _
  | reset _ hl => exact { resetWith_controlInv _ with }
  | result => exact h.ports _ _ _
  | @accum _ rest a d o =>
    exact ((h.ports none none rest).accumulate a d).ports _ (some o) _
  | event rest ht he => exact ((h.ports none none rest).takeTime ht).eventStep rfl he

/-! ### The DONE pulse -/

/-- The step from `s` to `u` pulses DONE with the new RESULT exactly when it enters a terminal STATE (10_state.md R24,
43_sequencer.md R125). -/
def PulseMarksEntry (s u : State) : Prop :=
  (u.state ≠ s.state → u.state.terminal = true → u.done = some u.result) ∧
    (∀ r, u.done = some r → u.state ≠ s.state ∧ u.state.terminal = true ∧ r = u.result)

theorem pulseMarksEntry_of_quiet {s u : State} (hd : u.done = none)
    (hs : u.state = s.state ∨ u.state.terminal = false) : PulseMarksEntry s u := by
  refine ⟨fun hne hterm => ?_, fun r hr => nomatch hd.symm.trans hr⟩
  rcases hs with hs | hs
  · exact absurd hs hne
  · exact nomatch hs.symm.trans hterm

theorem pulseMarksEntry_of_entry {s u : State} (hd : u.done = some u.result) (hne : u.state ≠ s.state)
    (hterm : u.state.terminal = true) : PulseMarksEntry s u :=
  ⟨fun _ _ => hd, fun _ hr => ⟨hne, hterm, Option.some.inj (hr.symm.trans hd)⟩⟩

theorem Ends.terminal {s : State} {st : SeqState} {r : CycleResult} (h : Ends s st r) : st.terminal = true := by
  cases h <;> rfl

theorem SeqState.ne_of_terminal_of_running {st st' : SeqState} (h : st.terminal = true) (h' : st'.running = true) :
    st ≠ st' := by
  rintro rfl
  simp [SeqState.not_running_of_terminal h] at h'

theorem EventStep.pulseMarksEntry {t : Nat} {s u : State} (h : EventStep t s u) (hd : s.done = none) :
    PulseMarksEntry s u := by
  cases h with
  | wrongDimensions hs =>
    have hne : SeqState.invalidDimensions ≠ s.state := by rintro he; simp [← he, SeqState.acceptsStart] at hs
    exact pulseMarksEntry_of_entry rfl hne rfl
  | beginCapture => exact pulseMarksEntry_of_quiet (by simpa using hd) (.inr rfl)
  | beginQuery | sent => exact pulseMarksEntry_of_quiet hd (.inr rfl)
  | goesOn hv => exact pulseMarksEntry_of_quiet (hv.done_eq.trans hd) (.inl hv.state_eq)
  | ends hs _ he => exact pulseMarksEntry_of_entry rfl (SeqState.ne_of_terminal_of_running he.terminal hs) he.terminal
  | answered _ _ _ hs =>
    exact pulseMarksEntry_of_entry rfl (SeqState.ne_of_terminal_of_running rfl (running_iff.2 (.inr hs))) rfl

theorem StepResult.pulseMarksEntry {s u : State} (h : StepResult s u) : PulseMarksEntry s u := by
  cases h with
  | idle | result => exact pulseMarksEntry_of_quiet rfl (.inl rfl)
  | reset => exact pulseMarksEntry_of_quiet rfl (.inr rfl)
  | accum => exact pulseMarksEntry_of_quiet (by simp) (.inl (by simp))
  | event rest _ he => exact he.pulseMarksEntry rfl

/-! ### The writers of each register -/

/-- `u` is `s` but for what ends a cycle or moves it on (10_state.md R28). -/
def OnlyCycleChanged (s u : State) : Prop :=
  u = { s with state := u.state, result := u.result, elapsed := u.elapsed, txValid := u.txValid, done := u.done }

/-- `u` is `s` but for what a read may write (10_state.md R28). -/
def OnlyReadChanged (s u : State) : Prop :=
  u = { s with state := u.state, result := u.result, elapsed := u.elapsed, txValid := u.txValid, done := u.done,
               fb := u.fb, maxEnd := u.maxEnd, pktCount := u.pktCount, tLast := u.tLast, qWidth := u.qWidth,
               qHeight := u.qHeight, qValid := u.qValid }

theorem txOkEffect_frame (t : Nat) (s : State) : OnlyCycleChanged s (txOkEffect t s) := by
  rcases txOkEffect_cases t s with ⟨-, he⟩ | ⟨-, -, -, he⟩ | ⟨-, -, -, he⟩ | ⟨-, -, he⟩ <;> rw [he] <;> rfl

theorem txFailEffect_frame (t : Nat) (s : State) : OnlyCycleChanged s (txFailEffect t s) := by
  rcases txFailEffect_cases t s with ⟨-, he⟩ | ⟨-, -, he⟩ | ⟨-, -, he⟩ <;> rw [he] <;> rfl

theorem rxFatalEffect_frame (t : Nat) (s : State) : OnlyCycleChanged s (rxFatalEffect t s) := by
  rcases rxFatalEffect_cases t s with ⟨-, he⟩ | ⟨-, he⟩ <;> rw [he] <;> rfl

theorem captureEnd_frame (n : Int) (t : Nat) (s : State) : OnlyCycleChanged s (captureEnd n t s) := by
  rcases captureEnd_cases n t s with ⟨-, he⟩ | ⟨-, -, -, he⟩ | ⟨-, -, -, he⟩ | ⟨-, -, he⟩ <;> rw [he] <;> rfl

theorem Received.frame {t : Nat} {s v : State} (h : Received t s v) : OnlyReadChanged s v := by cases h <;> rfl

theorem rxEffect_frame (n : Int) (B : List Byte) (t : Nat) (s : State) : OnlyReadChanged s (rxEffect n B t s) := by
  rcases rxEffect_cases n B t s with ⟨-, he⟩ | ⟨hs, hm, he⟩ | ⟨-, -, he⟩ <;> rw [he]
  · rfl
  · have hv : OnlyReadChanged s (usePacket n B t s) := (usePacket_received n B hs hm).frame
    rw [captureEnd_frame n t (usePacket n B t s), hv]
    rfl
  · rcases queryRead_cases n B t s with ⟨_, _, -, -, he⟩ | ⟨_, -, -, ⟨-, he⟩ | ⟨-, he⟩⟩ <;> rw [he] <;> rfl

theorem capStartEffect_query (w h : U16) (t : Nat) (s : State) :
    (capStartEffect w h t s).qWidth = s.qWidth ∧ (capStartEffect w h t s).qHeight = s.qHeight ∧
      (capStartEffect w h t s).qValid = s.qValid := by
  rcases capStartEffect_cases w h t s with ⟨-, he⟩ | ⟨-, -, he⟩ | ⟨-, -, -, he⟩ <;> rw [he] <;> simp

theorem qStartEffect_frame (t : Nat) (s : State) :
    (qStartEffect t s).width = s.width ∧ (qStartEffect t s).height = s.height ∧
      (qStartEffect t s).fbGen = s.fbGen ∧ (qStartEffect t s).fb = s.fb ∧
      (qStartEffect t s).maxEnd = s.maxEnd := by
  rcases qStartEffect_cases t s with ⟨-, he⟩ | ⟨-, he⟩ <;> rw [he] <;> simp

/-- The access table of 10_state.md R28: which operation may have changed which register from `s` to `u`. -/
def OnlyWritersWrote (i : Instr) (s u : State) : Prop :=
  u.cfg = s.cfg ∧
    (startEvent i = false → u.mode = s.mode ∧ u.tx = s.tx ∧ u.tStart = s.tStart) ∧
    ((∀ w h t, i ≠ .capStart w h t) → u.width = s.width ∧ u.height = s.height ∧ u.fbGen = s.fbGen) ∧
    ((∀ t, i ≠ .qStart t) → readEvent i = false →
      u.qWidth = s.qWidth ∧ u.qHeight = s.qHeight ∧ u.qValid = s.qValid) ∧
    ((∀ w h t, i ≠ .capStart w h t) → (∀ a d, i ≠ .accum a d) → readEvent i = false →
      u.fb = s.fb ∧ u.maxEnd = s.maxEnd) ∧
    (startEvent i = false → readEvent i = false → u.pktCount = s.pktCount ∧ u.tLast = s.tLast) ∧
    (sequencerEvent i = false →
      u.state = s.state ∧ u.result = s.result ∧ u.elapsed = s.elapsed ∧ u.txValid = s.txValid)

theorem OnlyCycleChanged.onlyWritersWrote {i : Instr} {s u : State} (h : OnlyCycleChanged s u)
    (hi : sequencerEvent i = true) : OnlyWritersWrote i s u := by
  rw [OnlyCycleChanged] at h
  rw [h]
  exact ⟨rfl, fun _ => ⟨rfl, rfl, rfl⟩, fun _ => ⟨rfl, rfl, rfl⟩, fun _ _ => ⟨rfl, rfl, rfl⟩,
    fun _ _ _ => ⟨rfl, rfl⟩, fun _ _ => ⟨rfl, rfl⟩, fun hn => nomatch hi.symm.trans hn⟩

theorem OnlyReadChanged.onlyWritersWrote {i : Instr} {s u : State} (h : OnlyReadChanged s u)
    (hi : readEvent i = true) : OnlyWritersWrote i s u := by
  have hseq : sequencerEvent i = true := by simp [sequencerEvent, hi]
  have no_read : readEvent i ≠ false := by simp [hi]
  rw [OnlyReadChanged] at h
  rw [h]
  exact ⟨rfl, fun _ => ⟨rfl, rfl, rfl⟩, fun _ => ⟨rfl, rfl, rfl⟩, fun _ hn => absurd hn no_read,
    fun _ _ hn => absurd hn no_read, fun _ hn => absurd hn no_read, fun hn => nomatch hseq.symm.trans hn⟩

theorem effectOf_onlyWritersWrote {i : Instr} {t : Nat} (hi : eventTime i = some t) (s : State) :
    OnlyWritersWrote i s (effectOf i t s) := by
  have hcfg := (EventStep.effectOf i t s).frame.1
  cases i <;> cases hi
  case capStart w h =>
    exact ⟨hcfg, nofun, fun hn => absurd rfl (hn w h t), fun _ _ => capStartEffect_query w h t s,
      fun hn => absurd rfl (hn w h t), nofun, nofun⟩
  case qStart =>
    obtain ⟨hw, hh, hg, hfb, hm⟩ := qStartEffect_frame t s
    exact ⟨hcfg, nofun, fun _ => ⟨hw, hh, hg⟩, fun hn => absurd rfl (hn t), fun _ _ _ => ⟨hfb, hm⟩, nofun, nofun⟩
  case txOk => exact (txOkEffect_frame t s).onlyWritersWrote rfl
  case txFail => exact (txFailEffect_frame t s).onlyWritersWrote rfl
  case rxFatal => exact (rxFatalEffect_frame t s).onlyWritersWrote rfl
  case rx | rspSysinfo | rspScreenbuf => exact (rxEffect_frame _ _ t s).onlyWritersWrote rfl

/-! ### The register port -/

theorem registerValue_eq_none {k : Nat} (hk : k = 14 ∨ k = 15 ∨ 25 ≤ k) (s : State) : registerValue s k = none := by
  rcases hk with rfl | rfl | hk
  · rfl
  · rfl
  · obtain ⟨n, rfl⟩ := Nat.exists_eq_add_of_le' hk
    rfl

theorem step_readRegister {s : State} {rest : List Input} {k v : Nat} (hp : s.port = .readRegister k :: rest)
    (hv : registerValue s k = some v) (h8 : k ≠ 8) (hk : isStatistic k = false) :
    step s = .next { s with port := rest, done := none, out := some (.register v) } := by
  rw [step_of_port_cons hp]
  exact readRegister_of_value (s := { s.openStep with port := rest }) hv h8 hk

/-! ### The transmit port -/

theorem step_readTx {s : State} {rest : List Input} (hp : s.port = .readTx :: rest) (hv : s.txValid = true) :
    step s = .next { s with port := rest, done := none, out := some (.report s.tx) } := by
  rw [step_of_port_cons hp]
  exact readTx_of_txValid (s := { s.openStep with port := rest }) hv

theorem expectedCommand_eq (p : Params) (m : Mode) :
    expectedCommand p m = if m = .capture then p.cmdScreenbuf else p.cmdSysinfo := by
  cases m <;> rfl

end Sys2Proof.Machine

namespace Sys2Proof.Proofs

open Sys2Proof.Machine

/-- Settles O47: the buffer invariant is kept by each thing a step can be. -/
theorem everyStepKeepsTheBufferInvariant : Obligations.EveryStepKeepsTheBufferInvariant :=
  fun _ _ hs h => hs.step (step_cases h)

/-- Settles O48: the control invariant is kept by each thing a step can be. -/
theorem everyStepKeepsTheControlInvariant : Obligations.EveryStepKeepsTheControlInvariant :=
  fun _ _ hs h => hs.step (step_cases h)

/-- Settles O40: with both guards open an operation answers, and each kind of answer keeps the frame. -/
theorem wellFormedOperationsComplete : Obligations.WellFormedOperationsComplete := by
  intro i s hi ht
  obtain ⟨u, hu⟩ := exec_completes hi ht
  refine ⟨u, hu, ?_⟩
  rcases exec_next_cases hu with ⟨o, rfl⟩ | ⟨a, d, o, -, rfl⟩ | ⟨t, -, -, rfl⟩
  · exact ⟨rfl, rfl, Nat.le_refl _⟩
  · simp
  · obtain ⟨hcfg, hport, -, hgen⟩ := (EventStep.effectOf i t { s with tPrev := some t }).frame
    exact ⟨hcfg, hport, hgen⟩

/-- Settles O41, by the frame of each kind of answer. -/
theorem eachRegisterHasItsWriters : Obligations.EachRegisterHasItsWriters := by
  intro i s u h
  rcases exec_next_cases h with ⟨o, rfl⟩ | ⟨a, d, o, rfl, rfl⟩ | ⟨t, ht, -, rfl⟩
  · exact ⟨rfl, fun _ => ⟨rfl, rfl, rfl⟩, fun _ => ⟨rfl, rfl, rfl⟩, fun _ _ => ⟨rfl, rfl, rfl⟩,
      fun _ _ _ => ⟨rfl, rfl⟩, fun _ _ => ⟨rfl, rfl⟩, fun _ => ⟨rfl, rfl, rfl, rfl⟩⟩
  · simp
  · exact effectOf_onlyWritersWrote ht { s with tPrev := some t }

/-- Settles O42, by what each thing a step can be does to STATE and the pulse. -/
theorem donePulseMarksEntryOfATerminalState : Obligations.DonePulseMarksEntryOfATerminalState :=
  fun _ _ h => (step_cases h).pulseMarksEntry

/-- Settles O44: reset answers the reset state; in a sticky STATE an event is ignored, and nothing else moves STATE. -/
theorem resetGivesTheResetState : Obligations.ResetGivesTheResetState := by
  refine fun s => ⟨fun p lost rest hp hl => ?_, fun u hs h hne => ?_⟩
  · refine ⟨{ State.resetWith p with port := rest, fbGen := s.fbGen }, ?_, ?_⟩
    · rw [step_of_port_cons hp, takeInput, takeReset_of_legal hl]
      rfl
    · simp [State.expected]
  · have hsticky : s.state.sticky = true := by rcases hs with hs | hs <;> rw [hs] <;> rfl
    cases step_cases h with
    | reset hp => exact ⟨_, _, _, hp⟩
    | idle | result => exact absurd rfl hne
    | accum => exact absurd (by simp) hne
    | event rest _ he => exact absurd (congrArg State.state (he.eq_of_sticky hsticky)) hne

/-- Settles O55: in the control invariant TX holds the request of the mode while TX_VALID = 1. -/
theorem transportReadsTheStandingRequest : Obligations.TransportReadsTheStandingRequest := by
  refine fun s rest hp => ⟨fun hs hv => ?_, fun hv => ?_⟩
  · rw [step_readTx hp hv, hs.txIsRequest hv, request, expectedCommand_eq]
  · rw [step_of_port_cons hp]
    exact readTx_of_not_txValid hv

/-- Settles O17: each broken operand is the first check its operation fails. -/
theorem operandsThatBreakTheirCountAreRefused : Obligations.OperandsThatBreakTheirCountAreRefused := by
  refine fun n B c t s => ⟨fun hB => ⟨?_, ?_, ?_, ?_⟩, fun hB hn => ?_, fun hB hn => ?_,
    fun cs st len ix hB => ⟨?_, ?_⟩⟩ <;> apply exec_of_defect
  · simp [Instr.defect, CountOk, hB]
  · simp [Instr.defect, CountOk, hB]
  · simp [Instr.defect, CountOk, hB]
  · simp [Instr.defect, CountOk, hB]
  · simp [Instr.defect, CountOk, hB, hn]
  · have : n.toNat < headerSize := by simp only [headerSize]; omega
    simp [Instr.defect, CountOk, hB, this]
  · simp [Instr.defect, headerSize, hB]
  · simp [Instr.defect, headerSize, hB]

/-- Settles O30: with well-formed operands only the timestamp can refuse an event. -/
theorem decreasingTimestampsAreRefused : Obligations.DecreasingTimestampsAreRefused := by
  intro t s i hi hwf
  rw [exec_of_event hi, whenWellFormed_of hwf]
  refine ⟨fun t0 hp hlt => ?_, fun hp => ?_⟩
  · exact onEvent_of_not_timeOk (fun h => absurd (h t0 hp) (by omega)) _
  · have ht : TimeOk s t := by
      intro t1 ht1
      rcases hp with hp | ⟨t0, hp, hle⟩
      · exact nomatch hp.symm.trans ht1
      · exact Option.some.inj (hp.symm.trans ht1) ▸ hle
    obtain ⟨-, -, hprev, -⟩ := (EventStep.effectOf i t { s with tPrev := some t }).frame
    exact ⟨_, onEvent_of_timeOk ht _, hprev⟩

/-- Settles O54: each of these registers has its value, is not T_LAST and is no statistic of a running cycle. -/
theorem registerPortGivesTheCodes : Obligations.RegisterPortGivesTheCodes := by
  intro s rest k v hp hk
  have readable : registerValue s k = some v ∧ k ≠ 8 ∧ isStatistic k = false := by
    rcases hk with ⟨rfl, rfl⟩ | ⟨rfl, rfl⟩ | ⟨rfl, rfl⟩ | hk
    · refine ⟨?_, by decide, rfl⟩
      change some (stateCode s.state).toNat = _
      cases s.state <;> rfl
    · refine ⟨?_, by decide, rfl⟩
      change some (modeCode s.mode).toNat = _
      cases s.mode <;> rfl
    · refine ⟨?_, by decide, rfl⟩
      change some (resultCode s.result).toNat = _
      cases s.result <;> rfl
    · rcases hk with ⟨rfl, rfl⟩ | ⟨rfl, rfl⟩ | ⟨rfl, rfl⟩ | ⟨rfl, rfl⟩ | ⟨rfl, rfl⟩ | ⟨rfl, rfl⟩ | ⟨rfl, rfl⟩ |
        ⟨rfl, rfl⟩ | ⟨rfl, rfl⟩ | ⟨rfl, rfl⟩ | ⟨rfl, rfl⟩ | ⟨rfl, rfl⟩ | ⟨rfl, rfl⟩ | ⟨rfl, rfl⟩ | ⟨rfl, rfl⟩ |
        ⟨rfl, rfl⟩ <;> exact ⟨rfl, by decide, rfl⟩
  obtain ⟨hv, h8, hstat⟩ := readable
  exact step_readRegister hp hv h8 hstat

/-- Settles O56: no value for the number, no offset in the frame, no right to read. -/
theorem readsOfWhatIsNotThereStop : Obligations.ReadsOfWhatIsNotThereStop := by
  refine fun s rest => ⟨fun k hk hp => ?_, fun a hs ha hp => ?_, fun hp => ?_⟩ <;>
    rw [step_of_port_cons hp, takeInput]
  · exact readRegister_of_none (registerValue_eq_none hk _)
  · exact readFb_of_outside hs ha
  · rfl

end Sys2Proof.Proofs
end

section
/-! The frame buffer (20_memory.md): which bytes of FB each update can change, said once per update, and from it that
a byte changes only under a stored chunk or with the whole buffer. -/

namespace Sys2Proof.Machine

/-! ### The bytes of FB that an update changes -/

theorem covered_of_fbByte_writeBytes_ne {s : State} {addr a : Nat} {data : List Byte}
    (h : ({ s with fb := s.fb.writeBytes addr data } : State).fbByte a ≠ s.fbByte a) :
    addr ≤ a ∧ a < addr + data.length := by
  by_contra hout
  rw [fbByte_writeBytes, if_neg hout] at h
  exact h rfl

/-- ACCUM changes a byte only under an accepted chunk (42_frame_accumulator.md R97, R98). -/
theorem covered_of_fbByte_accumulate_ne {s : State} {addr : U32} {data : List Byte} {a : Nat}
    (h : (accumulate addr data s).1.fbByte a ≠ s.fbByte a) :
    addr.toNat ≤ a ∧ a < addr.toNat + data.length ∧ addr.toNat + data.length ≤ s.expected := by
  rcases accumulate_cases addr data s with ⟨hr, he⟩ | ⟨-, he⟩ <;> rw [he] at h
  · obtain ⟨hlo, hhi⟩ := covered_of_fbByte_writeBytes_ne h
    exact ⟨hlo, hhi, hr⟩
  · exact absurd rfl h

/-- CAP_START with the dimensions that stand keeps the buffer (20_memory.md R31, R32). -/
theorem fbByte_capStartEffect_of_same {w h : U16} {s : State} (hd : w = s.width ∧ h = s.height) (t a : Nat) :
    (capStartEffect w h t s).fbByte a = s.fbByte a := by
  rcases capStartEffect_cases w h t s with ⟨-, he⟩ | ⟨-, -, he⟩ | ⟨-, -, -, he⟩ <;> rw [he]
  · rfl
  · rw [setDimensions, if_pos hd]
    rfl

theorem fbByte_qStartEffect (t : Nat) (s : State) (a : Nat) : (qStartEffect t s).fbByte a = s.fbByte a := by
  obtain ⟨-, -, hgen, hfb, -⟩ := qStartEffect_frame t s
  exact fbByte_congr hfb hgen a

/-- What ends a cycle or moves it on leaves FB. -/
theorem OnlyCycleChanged.fbByte_eq {s u : State} (h : OnlyCycleChanged s u) (a : Nat) : u.fbByte a = s.fbByte a := by
  rw [OnlyCycleChanged] at h
  rw [h]
  rfl

theorem fbByte_queryRead (n : Int) (B : List Byte) (t : Nat) (s : State) (a : Nat) :
    (queryRead n B t s).fbByte a = s.fbByte a := by
  rcases queryRead_cases n B t s with ⟨_, _, -, -, he⟩ | ⟨_, -, -, ⟨-, he⟩ | ⟨-, he⟩⟩ <;> rw [he] <;> rfl

/-- The report of a read that qualifies and carries a chunk that, in range, covers the byte of FB at offset `a`
(43_sequencer.md R116). -/
def ReadCovers (s : State) (n : Int) (B : List Byte) (a : Nat) (c : Chunk) : Prop :=
  qualify s.cfg n B s.cfg.cmdScreenbuf = true ∧ extractChunk n B = some c ∧ c.addr.toNat ≤ a ∧
    a < c.addr.toNat + c.data.length ∧ c.addr.toNat + c.data.length ≤ s.expected

theorem readCovers_of_fbByte_usePacket_ne {n : Int} {B : List Byte} {t : Nat} {s : State} {a : Nat}
    (h : (usePacket n B t s).fbByte a ≠ s.fbByte a) : ∃ c, ReadCovers s n B a c := by
  rcases usePacket_cases n B t s with ⟨-, he⟩ | ⟨-, -, he⟩ | ⟨c, hq, hc, hr, he⟩ <;> rw [he] at h
  · exact absurd rfl h
  · exact absurd rfl h
  · obtain ⟨hlo, hhi⟩ := covered_of_fbByte_writeBytes_ne h
    exact ⟨c, hq, hc, hlo, hhi, hr⟩

/-- A read changes a byte only in Collecting and Capture mode, under its own chunk: the end of the cycle leaves FB. -/
theorem readCovers_of_fbByte_rxEffect_ne {n : Int} {B : List Byte} {t : Nat} {s : State} {a : Nat}
    (h : (rxEffect n B t s).fbByte a ≠ s.fbByte a) :
    s.state = .collecting ∧ s.mode = .capture ∧ ∃ c, ReadCovers s n B a c := by
  rcases rxEffect_cases n B t s with ⟨-, he⟩ | ⟨hs, hm, he⟩ | ⟨-, -, he⟩ <;> rw [he] at h
  · exact absurd rfl h
  · rw [(captureEnd_frame n t _).fbByte_eq] at h
    exact ⟨hs, hm, readCovers_of_fbByte_usePacket_ne h⟩
  · exact absurd (fbByte_queryRead n B t s a) h

/-- Of the events, only CAP_START with other dimensions and a read's own chunk change a byte of FB. -/
theorem replaced_or_readCovers_of_fbByte_effectOf_ne {i : Instr} {t : Nat} (hi : eventTime i = some t) {s : State}
    {a : Nat} (hne : (effectOf i t s).fbByte a ≠ s.fbByte a) :
    (∃ w h, i = .capStart w h t ∧ ¬ (w = s.width ∧ h = s.height)) ∨
    (s.state = .collecting ∧ s.mode = .capture ∧
      ∃ n B c, readReport s.cfg i = some (n, B) ∧ ReadCovers s n B a c) := by
  cases i <;> cases hi
  case capStart w h => exact .inl ⟨w, h, rfl, fun hd => hne (fbByte_capStartEffect_of_same hd t a)⟩
  case qStart => exact absurd (fbByte_qStartEffect t s a) hne
  case txOk => exact absurd ((txOkEffect_frame t s).fbByte_eq a) hne
  case txFail => exact absurd ((txFailEffect_frame t s).fbByte_eq a) hne
  case rxFatal => exact absurd ((rxFatalEffect_frame t s).fbByte_eq a) hne
  case rx | rspSysinfo | rspScreenbuf =>
    obtain ⟨hs, hm, c, hc⟩ := readCovers_of_fbByte_rxEffect_ne hne
    exact .inr ⟨hs, hm, _, _, c, rfl, hc⟩

end Sys2Proof.Machine

namespace Sys2Proof.Proofs

open Sys2Proof.Machine

/-- Settles O52, by the kinds of answer: a result leaves FB, ACCUM stores its operands, and an event replaces the
buffer or stores the chunk of its own report. -/
theorem frameSurvivesUntilOverwrittenOrReplaced : Obligations.FrameSurvivesUntilOverwrittenOrReplaced := by
  intro i s u a h hne
  rcases exec_next_cases h with ⟨o, rfl⟩ | ⟨addr, data, o, rfl, rfl⟩ | ⟨t, ht, -, rfl⟩
  · exact absurd rfl hne
  · exact .inr (.inl ⟨addr, data, rfl, covered_of_fbByte_accumulate_ne hne⟩)
  · rcases replaced_or_readCovers_of_fbByte_effectOf_ne (s := { s with tPrev := some t }) ht hne with
      ⟨w, h', rfl, hd⟩ | hread
    · exact .inl ⟨w, h', t, rfl, hd⟩
    · exact .inr (.inr hread)

end Sys2Proof.Proofs
end

section
/-! The encoding of operations and reports (30_encoding.md): decoding and encoding are inverse, the request byte by
byte, and what a response on the wire does. -/

namespace Sys2Proof.Machine

/-! ### The header patterns, by the fields they fix -/

/-- Bytes 4 and 5 are those of a request exactly when status is 0 and length is 4 (30_encoding.md R52). -/
theorem statusLen_bytes_iff (B : List Byte) :
    byteAt B 4 = 4 ∧ byteAt B 5 = 0 ↔ (headerOf B).status = 0 ∧ (headerOf B).len = 4 := by
  constructor
  · rintro ⟨h4, h5⟩
    simp [headerOf, le16, h4, h5, statusField, lenField]
  · rintro ⟨hst, hlen⟩
    have hf : le16 B 4 = packStatusLen 0 4 := by
      rw [← hst, ← hlen]
      exact (packStatusLen_fields (le16 B 4)).symm
    constructor
    · rw [← Laws.request_byte_four, ← hf, le16, lo8_append]
    · rw [← Laws.request_byte_five, ← hf, le16, hi8_append]

theorem meetsRow_rsp_iff_headerOf (r c : Byte) (B : List Byte) :
    meetsRow rspMask (rspMatch r c) B = true ↔
      headerSize ≤ B.length ∧ headerOf B = { headerOf B with reportId := r, command := c } := by
  rw [meetsRow_rsp]
  simp [headerOf]

theorem meetsRow_req_iff_headerOf (r c : Byte) (B : List Byte) :
    meetsRow reqMask (reqMatch r c) B = true ↔
      headerSize ≤ B.length ∧ headerOf B = ⟨r, (headerOf B).echo, (headerOf B).checksum, 0, 4, c, 0⟩ := by
  have hsl := statusLen_bytes_iff B
  rw [meetsRow_req]
  simp only [headerOf, ReportHeader.mk.injEq] at hsl ⊢
  tauto

theorem headerSize_le_packHeader_append (h : ReportHeader) (rest : List Byte) :
    headerSize ≤ (packHeader h ++ rest).length := by
  simp

theorem meetsRow_rsp_packHeader (r c : Byte) (h : ReportHeader) (rest : List Byte) :
    meetsRow rspMask (rspMatch r c) (packHeader h ++ rest) = true ↔
      h = { h with reportId := r, command := c } := by
  rw [meetsRow_rsp_iff_headerOf, headerOf_packHeader_append]
  exact and_iff_right (headerSize_le_packHeader_append h rest)

theorem meetsRow_req_packHeader (r c : Byte) (h : ReportHeader) (rest : List Byte) :
    meetsRow reqMask (reqMatch r c) (packHeader h ++ rest) = true ↔ h = ⟨r, h.echo, h.checksum, 0, 4, c, 0⟩ := by
  rw [meetsRow_req_iff_headerOf, headerOf_packHeader_append]
  exact and_iff_right (headerSize_le_packHeader_append h rest)

/-- A report that meets a response row is the row's pattern filled with the fields read from it. -/
theorem packHeader_of_meetsRow_rsp {r c : Byte} {B : List Byte} (h : meetsRow rspMask (rspMatch r c) B = true) :
    packHeader { headerOf B with reportId := r, command := c } ++ B.drop 8 = B := by
  obtain ⟨hlen, hhdr⟩ := (meetsRow_rsp_iff_headerOf r c B).1 h
  rw [← hhdr, packHeader_headerOf hlen]

/-- A report that meets a request row is the row's pattern filled with the fields read from it. -/
theorem packHeader_of_meetsRow_req {r c : Byte} {B : List Byte} (h : meetsRow reqMask (reqMatch r c) B = true) :
    packHeader ⟨r, (headerOf B).echo, (headerOf B).checksum, 0, 4, c, 0⟩ ++ B.drop 8 = B := by
  obtain ⟨hlen, hhdr⟩ := (meetsRow_req_iff_headerOf r c B).1 h
  rw [← hhdr, packHeader_headerOf hlen]

/-! ### Encoding, then decoding -/

/-- A frame of the first request row decodes to it with the echo, checksum and body it carries. -/
theorem decodeOut_reqSysinfo (p : Params) (e : Byte) (cs : U16) (body : List Byte) :
    decodeOut p (packHeader ⟨p.reportId, e, cs, 0, 4, p.cmdSysinfo, 0⟩ ++ body) = .ok (.reqSysinfo e cs body) := by
  rw [decodeOut, if_pos ((meetsRow_req_packHeader ..).2 rfl), headerOf_packHeader_append, drop_packHeader_append]

/-- A frame of the second request row is not of the first, since their commands differ. -/
theorem decodeOut_reqScreenbuf {p : Params} (hp : p.cmdSysinfo ≠ p.cmdScreenbuf) (e : Byte) (cs : U16)
    (body : List Byte) :
    decodeOut p (packHeader ⟨p.reportId, e, cs, 0, 4, p.cmdScreenbuf, 0⟩ ++ body) =
      .ok (.reqScreenbuf e cs body) := by
  have other : ¬ meetsRow reqMask (reqMatch p.reportId p.cmdSysinfo)
      (packHeader ⟨p.reportId, e, cs, 0, 4, p.cmdScreenbuf, 0⟩ ++ body) = true := fun h =>
    hp (congrArg ReportHeader.command ((meetsRow_req_packHeader ..).1 h)).symm
  rw [decodeOut, if_neg other, if_pos ((meetsRow_req_packHeader ..).2 rfl), headerOf_packHeader_append,
    drop_packHeader_append]

theorem decodeIn_rspSysinfo (p : Params) (e : Byte) (cs : U16) (st : BitVec 6) (len : BitVec 10) (ix : Byte)
    (body : List Byte) (t : Nat) :
    decodeIn p (packHeader ⟨p.reportId, e, cs, st, len, p.cmdSysinfo, ix⟩ ++ body) t =
      .rspSysinfo e cs st len ix body t := by
  rw [decodeIn, if_pos ((meetsRow_rsp_packHeader ..).2 rfl), headerOf_packHeader_append,
    drop_packHeader_append]

theorem decodeIn_rspScreenbuf {p : Params} (hp : p.cmdSysinfo ≠ p.cmdScreenbuf) (e : Byte) (cs : U16)
    (st : BitVec 6) (len : BitVec 10) (ix : Byte) (body : List Byte) (t : Nat) :
    decodeIn p (packHeader ⟨p.reportId, e, cs, st, len, p.cmdScreenbuf, ix⟩ ++ body) t =
      .rspScreenbuf e cs st len ix body t := by
  have other : ¬ meetsRow rspMask (rspMatch p.reportId p.cmdSysinfo)
      (packHeader ⟨p.reportId, e, cs, st, len, p.cmdScreenbuf, ix⟩ ++ body) = true := fun h =>
    hp (congrArg ReportHeader.command ((meetsRow_rsp_packHeader ..).1 h)).symm
  rw [decodeIn, if_neg other, if_pos ((meetsRow_rsp_packHeader ..).2 rfl), headerOf_packHeader_append,
    drop_packHeader_append]

theorem decode_encode {p : Params} (hp : p.cmdSysinfo ≠ p.cmdScreenbuf) (i : Instr) :
    decode p (encode p i) = .ok i := by
  cases i
  case reqSysinfo e cs body => exact decodeOut_reqSysinfo p e cs body
  case reqScreenbuf e cs body => exact decodeOut_reqScreenbuf hp e cs body
  case rspSysinfo e cs st len ix body t => exact congrArg _ (decodeIn_rspSysinfo p e cs st len ix body t)
  case rspScreenbuf e cs st len ix body t => exact congrArg _ (decodeIn_rspScreenbuf hp e cs st len ix body t)
  all_goals rfl

/-! ### Decoding, then encoding -/

/-- An outbound report that decodes is the frame of what it decodes to. -/
theorem encode_of_decodeOut {p : Params} {B : List Byte} {i : Instr} (h : decodeOut p B = .ok i) :
    encode p i = .wireOut B := by
  simp only [decodeOut] at h
  split at h
  case isTrue hrow =>
    cases h
    exact congrArg _ (packHeader_of_meetsRow_req hrow)
  case isFalse =>
    split at h
    case isTrue hrow =>
      cases h
      exact congrArg _ (packHeader_of_meetsRow_req hrow)
    case isFalse => cases h

/-- An inbound report is the frame of the response it decodes to, or stands whole in an RX event. -/
theorem encode_decodeIn (p : Params) (B : List Byte) (t : Nat) :
    encode p (decodeIn p B t) = .wireIn B t ∨ decodeIn p B t = .rx (B.length : Int) B t := by
  simp only [decodeIn]
  split
  case isTrue hrow => exact .inl (congrArg (Frame.wireIn · t) (packHeader_of_meetsRow_rsp hrow))
  case isFalse =>
    split
    case isTrue hrow => exact .inl (congrArg (Frame.wireIn · t) (packHeader_of_meetsRow_rsp hrow))
    case isFalse => exact .inr rfl

theorem decodeOut_of_requestShape {p : Params} {B : List Byte} (h : requestShape p B) :
    ∃ i, decodeOut p B = .ok i := by
  by_cases hs : meetsRow reqMask (reqMatch p.reportId p.cmdSysinfo) B = true
  · exact ⟨_, by rw [decodeOut, if_pos hs]⟩
  · have hb := ((requestShape_iff_meetsRow p B).1 h).resolve_left hs
    exact ⟨_, by rw [decodeOut, if_neg hs, if_pos hb]⟩

theorem decodeOut_eq_noReportKind_iff (p : Params) (B : List Byte) :
    decodeOut p B = .error .noReportKind ↔ ¬ requestShape p B := by
  refine ⟨fun he hs => ?_, decodeOut_of_not_requestShape⟩
  obtain ⟨i, hi⟩ := decodeOut_of_requestShape hs
  cases hi.symm.trans he

/-! ### Every operation's outcome -/

/-- The two guards of an operation give its only refusals (10_state.md R25, 30_encoding.md R60). -/
theorem exec_outcomes (i : Instr) (s : State) :
    (∃ u, exec i s = .next u) ∨ exec i s = .refused .timestampDecreases ∨
      ∃ why, exec i s = .refused (.illFormed why) ∧ i.defect s.cfg = some why := by
  cases hi : i.defect s.cfg with
  | some why => exact .inr (.inr ⟨why, exec_of_defect hi, rfl⟩)
  | none =>
    by_cases ht : ∀ t, eventTime i = some t → TimeOk s t
    · exact .inl (exec_completes hi ht)
    · push Not at ht
      obtain ⟨t, he, hlate⟩ := ht
      exact .inr (.inl (by rw [exec_of_event he, whenWellFormed_of hi, onEvent_of_not_timeOk hlate]))

/-! ### Bytes and words as numbers -/

theorem lo8_eq_ofNat (v : U16) : lo8 v = BitVec.ofNat 8 v.toNat := by
  apply BitVec.eq_of_toNat_eq
  rw [lo8_toNat, BitVec.toNat_ofNat]

theorem hi8_eq_ofNat (v : U16) : hi8 v = BitVec.ofNat 8 (v.toNat / 256) := by
  apply BitVec.eq_of_toNat_eq
  have := v.isLt
  rw [hi8_toNat, BitVec.toNat_ofNat]
  omega

theorem lo8_zero : lo8 0 = 0 := by decide

theorem hi8_zero : hi8 0 = 0 := by decide

theorem le16_eq_natLe16 (B : List Byte) (i : Nat) : le16 B i = BitVec.ofNat 16 (natLe16 B i) := by
  rw [natLe16, ← byteAt, ← byteAt, ← le16_toNat, BitVec.ofNat_toNat, BitVec.setWidth_eq]

theorem le16_packHeader_append (h : ReportHeader) (rest : List Byte) (i : Nat) :
    le16 (packHeader h ++ rest) (i + 8) = le16 rest i := rfl

@[simp] theorem responseBytes_length (p : Params) (c e : Byte) (cs : U16) (st : BitVec 6) (len : BitVec 10)
    (ix : Byte) (body : List Byte) : (responseBytes p c e cs st len ix body).length = 8 + body.length := by
  rw [responseBytes, List.length_append, packHeader_length]

@[simp] theorem headerOf_responseBytes (p : Params) (c e : Byte) (cs : U16) (st : BitVec 6) (len : BitVec 10)
    (ix : Byte) (body : List Byte) :
    headerOf (responseBytes p c e cs st len ix body) = ⟨p.reportId, e, cs, st, len, c, ix⟩ :=
  headerOf_packHeader_append _ _

/-- The bytes of a response, the status and length field as a number (30_encoding.md R50, R52). -/
theorem responseBytes_eq (p : Params) (c e : Byte) (cs : U16) (st : BitVec 6) (len : BitVec 10) (ix : Byte)
    (body : List Byte) :
    responseBytes p c e cs st len ix body =
      [p.reportId, e, lo8 cs, hi8 cs, BitVec.ofNat 8 (st.toNat * 1024 + len.toNat),
        BitVec.ofNat 8 ((st.toNat * 1024 + len.toNat) / 256), c, ix] ++ body := by
  rw [responseBytes, packHeader, lo8_eq_ofNat (packStatusLen st len), hi8_eq_ofNat (packStatusLen st len),
    packStatusLen_toNat]

/-! ### The checksum of a report, and the packet filter, by the report's header -/

theorem zeroChecksum_packHeader_append (h : ReportHeader) (rest : List Byte) :
    zeroChecksum (packHeader h ++ rest) = packHeader { h with checksum := 0 } ++ rest := by
  simp only [zeroChecksum, packHeader, lo8_zero, hi8_zero, List.cons_append, List.set_cons_succ, List.set_cons_zero]

/-- VERIFY of a report: its checksum field is the sum of the report with that field zero (40_checksum.md R72). -/
theorem verify_packHeader_append (h : ReportHeader) (rest : List Byte) :
    verify (packHeader h ++ rest) = decide (csum (packHeader { h with checksum := 0 } ++ rest) = h.checksum) := by
  have hfield : le16 (packHeader h ++ rest) 2 = h.checksum :=
    congrArg ReportHeader.checksum (headerOf_packHeader_append h rest)
  rw [verify, if_neg (Nat.not_lt.2 (headerSize_le_packHeader_append h rest)), hfield,
    zeroChecksum_packHeader_append]

/-- The packet filter on a buffer, by the fields of its header: status, length and index play no part
(41_report_codec.md R86, R87). -/
theorem qualify_eq_true_iff {p : Params} {n : Int} {B : List Byte} {c : Byte} :
    qualify p n B c = true ↔
      (headerSize : Int) ≤ n ∧ headerSize ≤ B.length ∧ (headerOf B).reportId = p.reportId ∧
        ((headerOf B).echo = p.echo ∨ (headerOf B).echo = 0) ∧ (headerOf B).command = c ∧ verify B = true := by
  by_cases hn : n < (headerSize : Int)
  · simp only [qualify, if_pos hn, Int.not_le.2 hn, false_and, Bool.false_eq_true]
  by_cases hB : B.length < headerSize
  · simp only [qualify, if_neg hn, parseHeader_none hB, Nat.not_le.2 hB, false_and, and_false, Bool.false_eq_true]
  simp only [qualify, if_neg hn, parseHeader_some (Nat.not_lt.1 hB), Int.not_lt.1 hn, Nat.not_lt.1 hB, true_and]
  simp only [Bool.if_false_left, Bool.and_eq_true, Bool.not_eq_true', decide_eq_false_iff_not, not_and_or, not_not]

/-- A response with an echo that is ECHO or 0 and its own checksum qualifies. -/
theorem qualify_responseBytes {p : Params} {c e : Byte} {cs : U16} {st : BitVec 6} {len : BitVec 10} {ix : Byte}
    {body : List Byte} (he : e = p.echo ∨ e = 0)
    (hcs : cs = csum (packHeader ⟨p.reportId, e, 0, st, len, c, ix⟩ ++ body)) :
    qualify p (responseBytes p c e cs st len ix body).length (responseBytes p c e cs st len ix body) c = true := by
  have hlen : headerSize ≤ (responseBytes p c e cs st len ix body).length := headerSize_le_packHeader_append _ _
  have hv : verify (responseBytes p c e cs st len ix body) = true := by
    rw [responseBytes, verify_packHeader_append, decide_eq_true hcs.symm]
  rw [qualify_eq_true_iff, headerOf_responseBytes]
  exact ⟨Int.ofNat_le.2 hlen, hlen, rfl, he, rfl, hv⟩

/-! ### The request -/

/-- The header of a request: its length 4 and status 0 are the two bytes 04 00 (30_encoding.md R52, R57). -/
theorem packHeader_of_request (r e : Byte) (cs : U16) (c : Byte) :
    packHeader ⟨r, e, cs, 0, 4, c, 0⟩ = [r, e, lo8 cs, hi8 cs, 0x04, 0x00, c, 0x00] := by
  simp only [packHeader, Laws.request_byte_four, Laws.request_byte_five]

theorem csumTerm_zero (i : Nat) : csumTerm i 0 = 0 := by
  simp [csumTerm]

theorem csumFrom_replicate_zero (i k : Nat) : csumFrom 0 i (List.replicate k 0) = 0 := by
  induction k generalizing i with
  | zero => rfl
  | succ k ih => rw [List.replicate_succ, csumFrom_cons, csumTerm_zero, ih, add_zero]

/-- The checksum of the request with command `c`, as a number (30_encoding.md R57). -/
def requestSum (p : Params) (c : Byte) : Nat :=
  (p.reportId.toNat + 4 + c.toNat + 256 * p.echo.toNat) % 65536

/-- The header of the request with command `c` (30_encoding.md R57); `request_eq` ties it to the model. -/
def requestHeader (p : Params) (c : Byte) : ReportHeader :=
  ⟨p.reportId, p.echo, BitVec.ofNat 16 (requestSum p c), 0, 4, c, 0⟩

/-- Of a request only the id, the length and the command at even offsets and the echo at an odd one are not zero. -/
theorem csum_unsealed_request (p : Params) (c : Byte) (k : Nat) :
    csum (packHeader ⟨p.reportId, p.echo, 0, 0, 4, c, 0⟩ ++ List.replicate k 0) =
      BitVec.ofNat 16 (requestSum p c) := by
  apply BitVec.eq_of_toNat_eq
  rw [csum, csumFrom_append, csumFrom_replicate_zero, add_zero, packHeader_of_request, lo8_zero, hi8_zero]
  simp [csumFrom, csumTerm, requestSum, Nat.shiftLeft_eq]
  omega

theorem request_eq (p : Params) (c : Byte) :
    request p c = packHeader (requestHeader p c) ++ List.replicate p.bodyCap 0 := by
  have hlay (h : ReportHeader) : layReport p h [] = packHeader h ++ List.replicate p.bodyCap 0 := by
    simp [layReport]
  rw [request, buildReport, sealReport, hlay, hlay]
  exact congrArg (fun cs => packHeader ⟨p.reportId, p.echo, cs, 0, 4, c, 0⟩ ++ _) (csum_unsealed_request p c _)

theorem headerOf_request (p : Params) (c : Byte) : headerOf (request p c) = requestHeader p c := by
  rw [request_eq, headerOf_packHeader_append]

theorem verify_request (p : Params) (c : Byte) : verify (request p c) = true := by
  rw [request_eq, verify_packHeader_append]
  exact decide_eq_true (csum_unsealed_request p c _)

theorem le16_request_two (p : Params) (c : Byte) : le16 (request p c) 2 = BitVec.ofNat 16 (requestSum p c) :=
  congrArg ReportHeader.checksum (headerOf_request p c)

/-- An outbound report is the request exactly when it is that report, byte for byte (30_encoding.md R57, R61). -/
theorem isRequest_iff {p : Params} (hp : p.Legal) {c : Byte} {B : List Byte} :
    isRequest p c B = true ↔ B = request p c := by
  have hcap : p.bodyCap + 8 = p.reportLen := Params.bodyCap_add_eight hp
  constructor
  · intro h
    simp only [isRequest, Bool.and_eq_true, decide_eq_true_eq, List.all_eq_true, beq_iff_eq] at h
    obtain ⟨⟨⟨⟨⟨⟨⟨⟨hlen, hid⟩, hecho⟩, hst⟩, hl⟩, hcmd⟩, hix⟩, hbody⟩, hv⟩ := h
    have hrest : B.drop 8 = List.replicate p.bodyCap 0 :=
      List.eq_replicate_iff.2 ⟨by rw [List.length_drop]; omega, hbody⟩
    have hB : packHeader (headerOf B) ++ List.replicate p.bodyCap 0 = B :=
      hrest ▸ packHeader_headerOf (hlen ▸ hp)
    have hhdr : headerOf B = ⟨p.reportId, p.echo, (headerOf B).checksum, 0, 4, c, 0⟩ := by
      rw [← hid, ← hecho, ← hst, ← hl, ← hcmd, ← hix]
    have hcs : (headerOf B).checksum = BitVec.ofNat 16 (requestSum p c) := by
      rw [← hB, verify_packHeader_append, hhdr] at hv
      exact (of_decide_eq_true hv).symm.trans (csum_unsealed_request p c _)
    rw [request_eq, requestHeader, ← hcs, ← hhdr, hB]
  · rintro rfl
    have hlen : (request p c).length = p.reportLen := buildReport_length hp _ _ _ _
    have hbody : (request p c).drop 8 = List.replicate p.bodyCap 0 := by rw [request_eq, drop_packHeader_append]
    simp [isRequest, hlen, headerOf_request, hbody, verify_request, requestHeader]

/-- A request row gives the request of its command, and whether its report is it (30_encoding.md R57, R65). -/
theorem giveRequest_verdict {s : State} (hs : s.cfg.Legal) (c e : Byte) (cs : U16) (body : List Byte) :
    ∃ v : Bool, giveRequest c e cs body s = .next { s with out := some (.request (request s.cfg c) v) } ∧
      (v = true ↔ [s.cfg.reportId, e, lo8 cs, hi8 cs, 0x04, 0x00, c, 0x00] ++ body = request s.cfg c) := by
  refine ⟨_, rfl, ?_⟩
  rw [isRequest_iff hs, packHeader_of_request]

/-! ### What a response does -/

theorem wellFormed_rspSysinfo {p : Params} {e : Byte} {cs : U16} {st : BitVec 6} {len : BitVec 10} {ix : Byte}
    {body : List Byte} {t : Nat} :
    WellFormed p (.rspSysinfo e cs st len ix body t) ↔ headerSize + body.length ≤ p.reportLen := by
  simp [WellFormed, Instr.defect]

theorem wellFormed_rspScreenbuf {p : Params} {e : Byte} {cs : U16} {st : BitVec 6} {len : BitVec 10} {ix : Byte}
    {body : List Byte} {t : Nat} :
    WellFormed p (.rspScreenbuf e cs st len ix body t) ↔ headerSize + body.length ≤ p.reportLen := by
  simp [WellFormed, Instr.defect]

/-- An operation that delivers a read, behind its two guards, has the effect of its own report
(43_sequencer.md R116, R128). -/
theorem exec_of_readReport {i : Instr} {n : Int} {B : List Byte} {t : Nat} {s : State}
    (hr : readReport s.cfg i = some (n, B)) (he : eventTime i = some t) (hi : WellFormed s.cfg i) (ht : TimeOk s t) :
    exec i s = .next (rxEffect n B t { s with tPrev := some t }) := by
  obtain ⟨u, hu⟩ := exec_completes hi fun _ he' => Option.some.inj (he.symm.trans he') ▸ ht
  obtain ⟨t', he', -, rfl⟩ := exec_readReport hr hu
  cases he.symm.trans he'
  exact hu

/-- RX of a whole report that fits: its count is the report's length. -/
theorem exec_rx_length {B : List Byte} {t : Nat} {s : State} (hB : B.length ≤ s.cfg.reportLen) (ht : TimeOk s t) :
    exec (.rx B.length B t) s = .next (rxEffect B.length B t { s with tPrev := some t }) :=
  exec_of_readReport rfl rfl (wellFormed_rx.2 ⟨rfl, Int.ofNat_le.2 hB⟩) ht

/-- A read in Query mode that qualifies and carries a size ends the query (43_sequencer.md R128). -/
theorem queryRead_of_answer {n : Int} {B : List Byte} {t : Nat} {s : State} {w h : U16}
    (hq : qualify s.cfg n B s.cfg.cmdSysinfo = true) (hd : decodeSize n B = some (w, h)) :
    queryRead n B t s =
      endCycle .complete .queryOk t
        { s with pktCount := s.pktCount + 1, qWidth := w, qHeight := h, qValid := true } := by
  simp only [queryRead, hq, hd, if_true]

theorem decodeSize_responseBytes (p : Params) (c e : Byte) (cs : U16) (st : BitVec 6) (len : BitVec 10) (ix : Byte)
    {body : List Byte} (h : 4 ≤ body.length) :
    decodeSize (responseBytes p c e cs st len ix body).length (responseBytes p c e cs st len ix body) =
      some (BitVec.ofNat 16 (natLe16 body 0), BitVec.ofNat 16 (natLe16 body 2)) := by
  have hlong : ¬ ((responseBytes p c e cs st len ix body).length : Int) < (headerSize : Int) + 4 := by
    simp only [responseBytes_length, headerSize]
    omega
  rw [decodeSize, if_neg hlong, responseBytes, le16_packHeader_append _ _ 0, le16_packHeader_append _ _ 2,
    le16_eq_natLe16, le16_eq_natLe16]

/-- The state after a report whose chunk is stored, before the end of the cycle is decided (43_sequencer.md R116);
`usePacket_of_chunk` ties it to the model. -/
def storeChunk (c : Chunk) (t : Nat) (s : State) : State :=
  { s with pktCount := s.pktCount + 1, tLast := t, fb := s.fb.writeBytes c.addr.toNat c.data,
           maxEnd := max s.maxEnd (c.addr.toNat + c.data.length) }

theorem usePacket_of_chunk {n : Int} {B : List Byte} {t : Nat} {s : State} {c : Chunk}
    (hq : qualify s.cfg n B s.cfg.cmdScreenbuf = true) (hc : extractChunk n B = some c)
    (hr : c.addr.toNat + c.data.length ≤ s.expected) :
    usePacket n B t s = storeChunk c t s := by
  rcases usePacket_cases n B t s with ⟨hq', -⟩ | ⟨-, hout, -⟩ | ⟨d, -, hd, -, he⟩
  · exact absurd hq (by simp [hq'])
  · exact absurd (hout c hc) (by omega)
  · cases hc.symm.trans hd
    exact he

theorem captureEnd_of_covered {s : State} (h : s.expected ≤ s.maxEnd) (n : Int) (t : Nat) :
    captureEnd n t s = endCycle .complete .complete t s := by
  rw [captureEnd, if_pos (coverageReached_iff.2 h)]

theorem rxEffect_of_capture {s : State} (hs : s.state = .collecting) (hm : s.mode = .capture) (n : Int)
    (B : List Byte) (t : Nat) : rxEffect n B t s = captureEnd n t (usePacket n B t s) := by
  simp only [rxEffect, hs, hm, if_true]

theorem rxEffect_of_query {s : State} (hs : s.state = .collecting) (hm : s.mode = .query) (n : Int)
    (B : List Byte) (t : Nat) : rxEffect n B t s = queryRead n B t s := by
  simp only [rxEffect, hs, hm, if_true]

theorem OnlyCycleChanged.maxEnd_eq {s u : State} (h : OnlyCycleChanged s u) : u.maxEnd = s.maxEnd := by
  rw [OnlyCycleChanged] at h
  rw [h]

/-- A read in Capture mode that qualifies and carries a chunk in range stores it; what then ends the cycle leaves the
frame, and coverage ends it Complete (43_sequencer.md R116, R119). -/
theorem rxEffect_of_chunk {n : Int} {B : List Byte} {t : Nat} {s : State} {c : Chunk} (hs : s.state = .collecting)
    (hm : s.mode = .capture) (hq : qualify s.cfg n B s.cfg.cmdScreenbuf = true) (hc : extractChunk n B = some c)
    (hr : c.addr.toNat + c.data.length ≤ s.expected) :
    ∃ u, rxEffect n B t s = u ∧ OnlyCycleChanged (storeChunk c t s) u ∧
      (s.expected ≤ u.maxEnd → u = endCycle .complete .complete t (storeChunk c t s)) := by
  have hframe := captureEnd_frame n t (storeChunk c t s)
  refine ⟨_, ?_, hframe, fun hcov => captureEnd_of_covered (hframe.maxEnd_eq ▸ hcov) n t⟩
  rw [rxEffect_of_capture hs hm, usePacket_of_chunk hq hc hr]

/-- A response whose length field measures an address and data carries them as its chunk; what follows is padding
(42_frame_accumulator.md R96). -/
theorem extractChunk_responseBytes (p : Params) (c e : Byte) (cs : U16) (st : BitVec 6) (ix : Byte) (addr : U32)
    {data : List Byte} (pad : List Byte) (hd : data.length + 8 < 1024) :
    let B := responseBytes p c e cs st (BitVec.ofNat 10 (data.length + 8)) ix (le32bytes addr ++ (data ++ pad))
    extractChunk B.length B = some ⟨addr, data.length, data⟩ := by
  intro B
  have hlen : (headerOf B).len.toNat = data.length + 8 := by
    rw [headerOf_responseBytes, BitVec.toNat_ofNat]
    omega
  have haddr : le32 B 8 = addr := le32_le32bytes addr (data ++ pad)
  have hdata : B.drop 12 = data ++ pad := rfl
  have hsize : B.length = 12 + data.length + pad.length := by
    simp only [B, responseBytes_length, le32bytes, List.length_append, List.length_cons, List.length_nil]
    omega
  rw [extractChunk_eq_some, hlen, haddr, hdata, Nat.add_sub_cancel, List.take_left]
  exact ⟨by omega, by omega, rfl⟩

end Sys2Proof.Machine

namespace Sys2Proof.Proofs

open Sys2Proof.Machine

/-- Settles O35: each row of the encoding tables decodes to itself. -/
theorem decodeOfEncodeIsTheInstruction : Obligations.DecodeOfEncodeIsTheInstruction :=
  fun _ i hp => decode_encode hp i

/-- Settles O11: the request is its header and zeros, and its checksum is the sum of four bytes. -/
theorem requestIsTheDocumentedBytes : Obligations.RequestIsTheDocumentedBytes := by
  refine fun p hp => ⟨fun c => ?_, fun hid => ?_⟩
  · have hsum : (BitVec.ofNat 16 (requestSum p c)).toNat = requestSum p c :=
      Nat.mod_mod _ _
    intro cs
    rw [request_eq, requestHeader, packHeader_of_request, lo8_eq_ofNat, hi8_eq_ofNat, hsum]
    rfl
  · rw [le16_request_two, le16_request_two, requestSum, requestSum, hid]
    constructor <;> bv_omega

/-- Settles O31: either request row gives the request of its own command. -/
theorem requestRowsGiveTheRequest : Obligations.RequestRowsGiveTheRequest :=
  fun e cs body s hs =>
    ⟨giveRequest_verdict hs s.cfg.cmdSysinfo e cs body, giveRequest_verdict hs s.cfg.cmdScreenbuf e cs body⟩

/-- Settles O33: the response qualifies and carries a size, which ends the query. -/
theorem sysinfoResponseAnswersTheQuery : Obligations.SysinfoResponseAnswersTheQuery := by
  intro e cs st len ix body t s hs hm ht hfit hbody he hcs
  rw [exec_of_readReport rfl rfl (wellFormed_rspSysinfo.2 hfit) ht,
    rxEffect_of_query (s := { s with tPrev := some t }) hs hm,
    queryRead_of_answer (s := { s with tPrev := some t }) (qualify_responseBytes he hcs)
      (decodeSize_responseBytes _ _ _ _ _ _ _ hbody)]
  rfl

/-- Settles O34: the response qualifies and its chunk is stored; what then ends the cycle leaves the rest. -/
theorem screenbufResponseStoresItsChunk : Obligations.ScreenbufResponseStoresItsChunk := by
  intro e st ix addr data pad t s hs hm ht hdata hfit he hr body len cs
  have hbody : headerSize + body.length ≤ s.cfg.reportLen := by
    simp only [body, le32bytes, List.length_append, List.length_cons, List.length_nil, headerSize]
    omega
  obtain ⟨u, hx, hu, hend⟩ := rxEffect_of_chunk (s := { s with tPrev := some t }) (t := t) hs hm
    (qualify_responseBytes he rfl) (extractChunk_responseBytes _ _ _ _ st ix addr pad hdata) hr
  refine ⟨u, ?_, congrArg State.pktCount hu, congrArg State.tLast hu, congrArg State.maxEnd hu,
    fun a => (hu.fbByte_eq a).trans (fbByte_writeBytes s addr.toNat data a), fun hcov => ?_, ?_⟩
  · rw [exec_of_readReport rfl rfl (wellFormed_rspScreenbuf.2 hbody) ht]
    exact congrArg _ hx
  · obtain rfl := hend hcov
    exact ⟨rfl, rfl, rfl, rfl⟩
  · rw [OnlyCycleChanged] at hu
    rw [hu]
    rfl

/-- Settles O36: a report that meets a row is the row's pattern filled with the fields read from it. -/
theorem wireFramesAreDecodedWithoutLoss : Obligations.WireFramesAreDecodedWithoutLoss := by
  refine fun p B t i => ⟨encode_of_decodeOut, fun h => ?_, decodeOut_eq_noReportKind_iff p B⟩
  cases h
  exact encode_decodeIn p B t

/-- Settles O39: an operation stops only at one of its two guards. -/
theorem noOperationFaults : Obligations.NoOperationFaults := exec_outcomes

/-- Settles O32: a response and the RX event of its bytes have the effect of the same report. -/
theorem responseRowsAreTheReadThatCarriesThem : Obligations.ResponseRowsAreTheReadThatCarriesThem := by
  intro e cs st len ix body t s hfit ht f bytes
  have hbytes (c : Byte) : bytes c = responseBytes s.cfg c e cs st len ix body :=
    (responseBytes_eq s.cfg c e cs st len ix body).symm
  have hlen (c : Byte) := responseBytes_length s.cfg c e cs st len ix body
  have rx (c : Byte) := exec_rx_length (B := responseBytes s.cfg c e cs st len ix body) ((hlen c).trans_le hfit) ht
  simp only [hbytes, ← hlen s.cfg.cmdSysinfo]
  exact ⟨⟨_, exec_of_readReport rfl rfl (wellFormed_rspSysinfo.2 hfit) ht, rx _⟩,
    ⟨_, exec_of_readReport rfl rfl (wellFormed_rspScreenbuf.2 hfit) ht, rx _⟩⟩

/-- Settles O37: the assigned codes and the reports are the frames of their operations, so O35 decodes them. -/
theorem sampleWordsDecode : Obligations.SampleWordsDecode := by
  have sample (i : Instr) : decode Params.standard (encode Params.standard i) = .ok i := decode_encode (by decide) i
  exact ⟨sample (.csum [0x12]), sample (.accum 50 [0x22]), sample (.capStart 10 5 7), sample (.rx (-1) [] 3),
    decodeOp_unassigned (.inl rfl) {}, sample (.reqSysinfo 0 0x28 []), sample (.reqScreenbuf 0 0x4B []),
    sample (.rspScreenbuf 0x5A 0xA085 3 12 7 [9] 4), sample (.rspSysinfo 0x5A 0x5C5C 0 8 0 [0x40] 4)⟩

end Sys2Proof.Proofs
end

section
/-! The checksum unit (40_checksum.md): CSUM as a sum over the offsets, over the words and over the bytes of either
parity; how one changed byte moves it; and VERIFY by the stored field. -/

namespace Sys2Proof.Machine

/-! ### The two operations -/

theorem exec_csum (B : List Byte) (s : State) : exec (.csum B) s = .next { s with out := some (.word (csum B)) } := rfl

theorem exec_verify (B : List Byte) (s : State) :
    exec (.verify B) s = .next { s with out := some (.verdict (verify B)) } := rfl

/-! ### A byte's share of the sum -/

theorem csumTerm_eq_ofNat (i : Nat) (b : Byte) :
    csumTerm i b =
      BitVec.ofNat 16 ((if i % 2 = 0 then b.toNat else 0) + 256 * (if i % 2 = 1 then b.toNat else 0)) := by
  apply BitVec.eq_of_toNat_eq
  rcases Nat.mod_two_eq_zero_or_one i with h | h <;> simp [csumTerm, h, Nat.shiftLeft_eq, Nat.mul_comm]

/-- Two neighbouring bytes from an even offset on add their little-endian word (40_checksum.md R71 (a)). -/
theorem csumTerm_add_csumTerm {i : Nat} (h : i % 2 = 0) (a b : Byte) :
    csumTerm i a + csumTerm (i + 1) b = BitVec.ofNat 16 (a.toNat + 256 * b.toNat) := by
  rw [csumTerm_eq_ofNat, csumTerm_eq_ofNat, ← BitVec.ofNat_add]
  simp [h, show (i + 1) % 2 = 1 by omega]

/-! ### CSUM as a sum -/

theorem csumFrom_eq_sum (i : Nat) (B : List Byte) :
    csumFrom 0 i B = ∑ k ∈ Finset.range B.length, csumTerm (i + k) (B.getD k 0) := by
  induction B generalizing i with
  | nil => rfl
  | cons b bs ih =>
    rw [csumFrom_cons, ih, List.length_cons, Finset.sum_range_succ', add_comm]
    simp only [List.getD_cons_succ, List.getD_cons_zero, Nat.add_zero, Nat.add_assoc, Nat.add_comm 1]

theorem evenSum_add_oddSum (B : List Byte) :
    evenSum B + 256 * oddSum B =
      ∑ k ∈ Finset.range B.length,
        ((if k % 2 = 0 then (B.getD k 0).toNat else 0) + 256 * (if k % 2 = 1 then (B.getD k 0).toNat else 0)) := by
  rw [evenSum, oddSum, Finset.mul_sum, Finset.sum_add_distrib]

theorem csum_eq_ofNat (B : List Byte) : csum B = BitVec.ofNat 16 (evenSum B + 256 * oddSum B) := by
  rw [evenSum_add_oddSum, ← BitVec.natCast_eq_ofNat, Nat.cast_sum, csum, csumFrom_eq_sum]
  refine Finset.sum_congr rfl fun k _ => ?_
  rw [Nat.zero_add, csumTerm_eq_ofNat, BitVec.natCast_eq_ofNat]

theorem csum_cons_cons (a b : Byte) (bs : List Byte) :
    csum (a :: b :: bs) = BitVec.ofNat 16 (a.toNat + 256 * b.toNat) + csum bs := by
  rw [csum, csumFrom_cons, csumFrom_cons, ← add_assoc, csumTerm_add_csumTerm rfl,
    csumFrom_congr (i := 0 + 1 + 1) (j := 0) rfl, csum]

/-- The words of a buffer, after its first two bytes (40_checksum.md R71 (a)). -/
theorem sum_natLe16_cons_cons (a b : Byte) (bs : List Byte) :
    ∑ k ∈ Finset.range (((a :: b :: bs).length + 1) / 2), natLe16 (a :: b :: bs) (2 * k) =
      (a.toNat + 256 * b.toNat) + ∑ k ∈ Finset.range ((bs.length + 1) / 2), natLe16 bs (2 * k) := by
  have hlen : ((a :: b :: bs).length + 1) / 2 = (bs.length + 1) / 2 + 1 := by simp only [List.length_cons]; omega
  rw [hlen, Finset.sum_range_succ', add_comm]
  rfl

theorem csum_eq_ofNat_sum_natLe16 (B : List Byte) :
    csum B = BitVec.ofNat 16 (∑ k ∈ Finset.range ((B.length + 1) / 2), natLe16 B (2 * k)) := by
  induction B using List.twoStepInduction with
  | nil => rfl
  | singleton a => simp [csum, csumFrom, csumTerm_eq_ofNat, natLe16]
  | cons_cons a b bs ih _ => rw [csum_cons_cons, sum_natLe16_cons_cons, ih, ← BitVec.ofNat_add]

/-! ### CSUM by the bytes of either parity -/

/-- The bytes at the offsets of parity `r`, where the first byte stands at offset `i`; `bytesAtParityFrom_zero` ties it
to `bytesAtParity`. -/
def bytesAtParityFrom (i r : Nat) (B : List Byte) : List Byte :=
  ((B.zipIdx i).filter fun x => x.2 % 2 == r).map Prod.fst

theorem bytesAtParityFrom_zero (r : Nat) (B : List Byte) : bytesAtParityFrom 0 r B = bytesAtParity r B := rfl

theorem bytesAtParityFrom_cons_same {i r : Nat} (h : i % 2 = r) (b : Byte) (bs : List Byte) :
    bytesAtParityFrom i r (b :: bs) = b :: bytesAtParityFrom (i + 1) r bs := by
  simp [bytesAtParityFrom, h]

theorem bytesAtParityFrom_cons_other {i r : Nat} (h : i % 2 ≠ r) (b : Byte) (bs : List Byte) :
    bytesAtParityFrom i r (b :: bs) = bytesAtParityFrom (i + 1) r bs := by
  simp [bytesAtParityFrom, h]

theorem csumFrom_eq_sum_bytesAtParityFrom (i : Nat) (B : List Byte) :
    csumFrom 0 i B =
      ((bytesAtParityFrom i 0 B).map (csumTerm 0)).sum + ((bytesAtParityFrom i 1 B).map (csumTerm 1)).sum := by
  induction B generalizing i with
  | nil => rfl
  | cons b bs ih =>
    rw [csumFrom_cons, ih]
    rcases Nat.mod_two_eq_zero_or_one i with h | h
    · rw [bytesAtParityFrom_cons_same h, bytesAtParityFrom_cons_other (r := 1) (by omega), csumTerm_congr (j := 0) h,
        List.map_cons, List.sum_cons, add_assoc]
    · rw [bytesAtParityFrom_cons_same h, bytesAtParityFrom_cons_other (r := 0) (by omega), csumTerm_congr (j := 1) h,
        List.map_cons, List.sum_cons, add_left_comm]

theorem csum_eq_sum_bytesAtParity (B : List Byte) :
    csum B = ((bytesAtParity 0 B).map (csumTerm 0)).sum + ((bytesAtParity 1 B).map (csumTerm 1)).sum := by
  rw [csum, csumFrom_eq_sum_bytesAtParityFrom, bytesAtParityFrom_zero, bytesAtParityFrom_zero]

theorem csum_congr_of_perm {B B' : List Byte} (h0 : (bytesAtParity 0 B).Perm (bytesAtParity 0 B'))
    (h1 : (bytesAtParity 1 B).Perm (bytesAtParity 1 B')) : csum B = csum B' := by
  rw [csum_eq_sum_bytesAtParity, csum_eq_sum_bytesAtParity, (h0.map _).sum_eq, (h1.map _).sum_eq]

/-! ### CSUM of concatenations and of a changed byte -/

theorem csum_append_of_even {A : List Byte} (h : A.length % 2 = 0) (B : List Byte) :
    csum (A ++ B) = csum A + csum B := by
  rw [csum, csumFrom_append, csumFrom_congr (i := 0 + A.length) (j := 0) (by omega), csum, csum]

theorem csum_append_replicate_zero (B : List Byte) (k : Nat) : csum (B ++ List.replicate k 0) = csum B := by
  rw [csum, csumFrom_append, csumFrom_replicate_zero, add_zero, csum]

theorem csumFrom_set {B : List Byte} {i : Nat} {x : Byte} (j : Nat) (hx : B[i]? = some x) (y : Byte) :
    csumFrom 0 j (B.set i y) + csumTerm (j + i) x = csumFrom 0 j B + csumTerm (j + i) y := by
  induction B generalizing i j with
  | nil => cases hx
  | cons b bs ih =>
    cases i with
    | zero =>
      cases hx
      simp only [List.set_cons_zero, csumFrom_cons, Nat.add_zero]
      ac_rfl
    | succ i =>
      have hbs := ih (j + 1) hx
      rw [Nat.add_right_comm, Nat.add_assoc] at hbs
      rw [List.set_cons_succ, csumFrom_cons, csumFrom_cons, add_assoc, hbs, add_assoc]

/-- One changed byte moves the sum by the difference of its shares (40_checksum.md R71 (e)). -/
theorem csum_set {B : List Byte} {i : Nat} {x : Byte} (hx : B[i]? = some x) (y : Byte) :
    csum (B.set i y) + csumTerm i x = csum B + csumTerm i y := by
  simpa only [csum, Nat.zero_add] using csumFrom_set 0 hx y

theorem csum_set_ne {B : List Byte} {i : Nat} {x y : Byte} (hx : B[i]? = some x) (hne : x ≠ y) :
    csum (B.set i y) ≠ csum B := by
  intro heq
  have hset := csum_set hx y
  rw [heq, add_right_inj] at hset
  exact hne (csumTerm_injective i hset)

/-! ### The checksum field -/

theorem byteAt_set_self {B : List Byte} {i : Nat} (h : i < B.length) (y : Byte) : byteAt (B.set i y) i = y := by
  simp [byteAt, h]

theorem byteAt_set_ne {i j : Nat} (h : i ≠ j) (B : List Byte) (y : Byte) : byteAt (B.set i y) j = byteAt B j := by
  simp [byteAt, List.getD_eq_getElem?_getD, h]

theorem getElem?_eq_some_byteAt {B : List Byte} {i : Nat} (h : i < B.length) : B[i]? = some (byteAt B i) := by
  simp [byteAt, h]

theorem le16_toNat_eq_natLe16 (B : List Byte) (i : Nat) : (le16 B i).toNat = natLe16 B i := le16_toNat B i

/-- Zeroing the field takes the field's value off the sum, since its low byte stands at an even offset
(40_checksum.md R73). -/
theorem csum_eq_zeroChecksum_add {B : List Byte} (h : headerSize ≤ B.length) :
    csum B = csum (zeroChecksum B) + le16 B 2 := by
  rw [headerSize] at h
  have h2 := csum_set (getElem?_eq_some_byteAt (B := B) (i := 2) (by omega)) 0
  have h3 := csum_set (getElem?_eq_some_byteAt (B := B.set 2 0) (i := 3) (by rw [List.length_set]; omega)) 0
  rw [csumTerm_zero, add_zero] at h2 h3
  rw [byteAt_set_ne (by decide)] at h3
  have hfield : le16 B 2 = csumTerm 2 (byteAt B 2) + csumTerm 3 (byteAt B 3) := by
    rw [csumTerm_add_csumTerm rfl, le16_eq_natLe16]
    rfl
  rw [zeroChecksum, hfield, add_comm (csumTerm 2 _), ← add_assoc, h3, h2]

theorem verify_eq_true_iff {B : List Byte} :
    verify B = true ↔ headerSize ≤ B.length ∧ csum (zeroChecksum B) = le16 B 2 := by
  rw [verify]
  split
  next h => simp [Nat.not_le.2 h]
  next h => simp [Nat.not_lt.1 h]

/-- The equivalent form of VERIFY (40_checksum.md R73). -/
theorem verify_eq_true_iff_csum {B : List Byte} (h : headerSize ≤ B.length) :
    verify B = true ↔ csum B = 2 * le16 B 2 := by
  rw [verify_eq_true_iff, csum_eq_zeroChecksum_add h, two_mul, add_left_inj]
  exact and_iff_right h

/-! ### Writing the field -/

/-- `B` with the value `v` in its checksum field; `le16_setChecksum` ties it to the field that VERIFY reads. -/
def setChecksum (B : List Byte) (v : U16) : List Byte := (B.set 2 (lo8 v)).set 3 (hi8 v)

theorem setChecksum_length (B : List Byte) (v : U16) : (setChecksum B v).length = B.length := by simp [setChecksum]

theorem le16_setChecksum {B : List Byte} (h : headerSize ≤ B.length) (v : U16) : le16 (setChecksum B v) 2 = v := by
  rw [headerSize] at h
  rw [le16, setChecksum, byteAt_set_self (by rw [List.length_set]; omega), byteAt_set_ne (by decide),
    byteAt_set_self (by omega), hi8_append_lo8]

/-- The recomputed sum does not depend on the field. -/
theorem zeroChecksum_set_of_field {i : Nat} (h : i = 2 ∨ i = 3) (B : List Byte) (y : Byte) :
    zeroChecksum (B.set i y) = zeroChecksum B := by
  rcases h with rfl | rfl
  · rw [zeroChecksum, List.set_set, zeroChecksum]
  · rw [zeroChecksum, List.set_comm y 0 (by decide), List.set_set, zeroChecksum]

theorem verify_setChecksum_iff {B : List Byte} (h : headerSize ≤ B.length) (v : U16) :
    verify (setChecksum B v) = true ↔ v = csum (zeroChecksum B) := by
  have hzero : zeroChecksum (setChecksum B v) = zeroChecksum B := by
    rw [setChecksum, zeroChecksum_set_of_field (.inr rfl), zeroChecksum_set_of_field (.inl rfl)]
  rw [verify_eq_true_iff, setChecksum_length, le16_setChecksum h, hzero, eq_comm]
  exact and_iff_right h

/-! ### VERIFY of a changed byte -/

theorem le16_set_of_ne {i j : Nat} (h : i ≠ j) (h' : i ≠ j + 1) (B : List Byte) (y : Byte) :
    le16 (B.set i y) j = le16 B j := by
  rw [le16, byteAt_set_ne h, byteAt_set_ne h', le16]

theorem byteAt_eq_of_le16_eq {A B : List Byte} {i j : Nat} (h : le16 A j = le16 B j) (hi : i = j ∨ i = j + 1) :
    byteAt A i = byteAt B i := by
  rcases hi with rfl | rfl
  · simpa only [le16, lo8_append] using congrArg lo8 h
  · simpa only [le16, hi8_append] using congrArg hi8 h

/-- Outside the field a change moves the sum and not the field; inside it moves the field and not the recomputed sum
(40_checksum.md R73 (b), (c)). -/
theorem verify_set_eq_false {B : List Byte} {i : Nat} {x y : Byte} (hv : verify B = true) (hx : B[i]? = some x)
    (hne : x ≠ y) : verify (B.set i y) = false := by
  obtain ⟨hlen, hsum⟩ := verify_eq_true_iff.1 hv
  have hlen' : headerSize ≤ (B.set i y).length := by rwa [List.length_set]
  obtain ⟨hi, -⟩ := List.getElem?_eq_some_iff.1 hx
  rw [Bool.eq_false_iff]
  intro hv'
  by_cases hf : i = 2 ∨ i = 3
  · have hsum' := (verify_eq_true_iff.1 hv').2
    rw [zeroChecksum_set_of_field hf, hsum] at hsum'
    have hbyte := byteAt_eq_of_le16_eq hsum' hf
    rw [byteAt_set_self hi] at hbyte
    rw [getElem?_eq_some_byteAt hi, hbyte] at hx
    exact hne (Option.some.inj hx).symm
  · rw [not_or] at hf
    rw [verify_eq_true_iff_csum hlen', le16_set_of_ne hf.1 hf.2, ← (verify_eq_true_iff_csum hlen).1 hv] at hv'
    exact csum_set_ne hx hne hv'

end Sys2Proof.Machine

namespace Sys2Proof.Proofs

open Sys2Proof.Machine

/-- Settles O7: zeroing the field takes its value off the sum, so the sum is twice the field exactly when VERIFY holds,
and the one value that verifies is the sum with the field zero. -/
theorem verifyEquivalentFormAndUniqueField : Obligations.VerifyEquivalentFormAndUniqueField :=
  fun B h => ⟨verify_eq_true_iff_csum h, csum (zeroChecksum B), (verify_setChecksum_iff h _).2 rfl,
    fun v hv => (verify_setChecksum_iff h v).1 hv⟩

/-- Settles O8: a change outside the field moves the sum alone, one inside moves the field alone. -/
theorem verifyDetectsEveryByteChange : Obligations.VerifyDetectsEveryByteChange :=
  fun _ _ _ _ hv hx hne => verify_set_eq_false hv hx hne

/-- Settles O1: each byte adds its value, times 256 at an odd offset. -/
theorem csumIsTheParityWeightedSum : Obligations.CsumIsTheParityWeightedSum := by
  intro B s
  rw [exec_csum, csum_eq_ofNat]

/-- Settles O2, two bytes at a time. -/
theorem csumIsTheLittleEndianWordSum : Obligations.CsumIsTheLittleEndianWordSum := csum_eq_ofNat_sum_natLe16

/-- Settles O3: CSUM is a sum over the bytes of either parity, which a permutation keeps. -/
theorem csumIsInvariantUnderSameParityPermutation : Obligations.CsumIsInvariantUnderSameParityPermutation := by
  intro B B' s h0 h1
  rw [exec_csum, exec_csum, csum_congr_of_perm h0 h1]

/-- Settles O4: the loop over the second buffer starts at an even offset, and zeros add nothing. -/
theorem csumOfConcatenationAndOfTrailingZeros : Obligations.CsumOfConcatenationAndOfTrailingZeros :=
  ⟨fun _ B h => csum_append_of_even h B, csum_append_replicate_zero⟩

/-- Settles O5: the byte's share of the sum is exchanged, and different bytes have different shares. -/
theorem csumAfterOneByteChange : Obligations.CsumAfterOneByteChange :=
  fun _ _ _ y hx => ⟨csum_set hx y, csum_set_ne hx⟩

/-- Settles O6: VERIFY reads the field as the number that the recomputed sum is compared with. -/
theorem verifyComparesStoredWithRecomputed : Obligations.VerifyComparesStoredWithRecomputed := by
  intro B s
  refine ⟨verify B, exec_verify B s, ?_⟩
  rw [verify_eq_true_iff, ← le16_toNat_eq_natLe16, BitVec.toNat_inj]
  rfl

end Sys2Proof.Proofs
end

section
/-! The report codec and the packet filter (41_report_codec.md): what each operation answers, the header's fields as
numbers, and a built report as its header and its padded body. -/

namespace Sys2Proof.Machine

/-! ### What the operations answer -/

theorem exec_build (e c ix : Byte) (body : List Byte) (s : State) :
    exec (.build e c ix body) s = .next { s with out := some (.report (buildReport s.cfg e c ix body)) } := rfl

theorem exec_parse_of_header {B : List Byte} (h : headerSize ≤ B.length) (s : State) :
    exec (.parse B) s = .next { s with out := some (.header (headerOf B)) } := by
  have hwf : WellFormed s.cfg (.parse B) := if_neg (Nat.not_lt.2 h)
  rw [exec_parse, whenWellFormed_of hwf, giveResult]

theorem exec_qualify_of_countOk {n : Int} {B : List Byte} (h : CountOk n B) (c : Byte) (s : State) :
    exec (.qualify n B c) s = .next { s with out := some (.verdict (qualify s.cfg n B c)) } := by
  have hwf : WellFormed s.cfg (.qualify n B c) := if_pos h
  exact whenWellFormed_of hwf _

theorem exec_sizedec_of_countOk {n : Int} {B : List Byte} (h : CountOk n B) (s : State) :
    exec (.sizedec n B) s = .next { s with out := some (.size (decodeSize n B)) } := by
  have hwf : WellFormed s.cfg (.sizedec n B) := if_pos h
  exact whenWellFormed_of hwf _

/-! ### The header's fields as numbers -/

theorem lenField_eq_ofNat (f : U16) : lenField f = BitVec.ofNat 10 (f.toNat % 1024) := by
  apply BitVec.eq_of_toNat_eq
  simp [lenField]

theorem statusField_eq_ofNat (f : U16) : statusField f = BitVec.ofNat 6 (f.toNat / 1024) := by
  apply BitVec.eq_of_toNat_eq
  simp [statusField, Nat.shiftRight_eq_div_pow]

theorem headerOf_checksum (B : List Byte) : (headerOf B).checksum = le16 B 2 := rfl

/-- The seven fields by the bytes and the two 16-bit fields they are read from (41_report_codec.md R83). -/
theorem headerOf_eq (B : List Byte) :
    headerOf B = ⟨byteAt B 0, byteAt B 1, BitVec.ofNat 16 (natLe16 B 2), BitVec.ofNat 6 (natLe16 B 4 / 1024),
      BitVec.ofNat 10 (natLe16 B 4 % 1024), byteAt B 6, byteAt B 7⟩ := by
  rw [headerOf, statusField_eq_ofNat, lenField_eq_ofNat, le16_toNat_eq_natLe16, le16_eq_natLe16]

theorem decodeSize_eq (n : Int) (B : List Byte) :
    decodeSize n B =
      if n < 12 then none else some (BitVec.ofNat 16 (natLe16 B 8), BitVec.ofNat 16 (natLe16 B 10)) := by
  rw [decodeSize, le16_eq_natLe16, le16_eq_natLe16]
  rfl

/-! ### The body of a built report -/

/-- What follows the header of a built report: the body cut off at BODY_CAP or filled up to it with zeros
(41_report_codec.md R84). `buildReport_eq` ties it to the model. -/
def paddedBody (p : Params) (body : List Byte) : List Byte :=
  body.take p.bodyCap ++ List.replicate (p.bodyCap - body.length) 0

theorem paddedBody_getElem?_of_body {p : Params} {body : List Byte} {j : Nat} (hj : j < body.length)
    (hcap : j < p.bodyCap) : (paddedBody p body)[j]? = body[j]? := by
  rw [paddedBody, List.getElem?_append_left (by rw [List.length_take]; omega), List.getElem?_take_of_lt hcap]

theorem paddedBody_getElem?_of_padding {p : Params} {body : List Byte} {j : Nat} (hj : body.length ≤ j)
    (hcap : j < p.bodyCap) : (paddedBody p body)[j]? = some 0 := by
  have htake : (body.take p.bodyCap).length = body.length := by rw [List.length_take]; omega
  rw [paddedBody, List.getElem?_append_right (by omega), htake, List.getElem?_replicate_of_lt (by omega)]

/-! ### A built report -/

/-- A built report has the layout that a response with status 0 has, over the padded body; its checksum field is the
sum of the report itself with that field zero (41_report_codec.md R84, 40_checksum.md R75). -/
theorem buildReport_eq (p : Params) (e c ix : Byte) (body : List Byte) :
    buildReport p e c ix body =
      responseBytes p c e (csum (zeroChecksum (buildReport p e c ix body))) 0 (BitVec.ofNat 10 (body.length + 4)) ix
        (paddedBody p body) := by
  have hzero : zeroChecksum (buildReport p e c ix body) =
      packHeader ⟨p.reportId, e, 0, 0, BitVec.ofNat 10 (body.length + 4), c, ix⟩ ++ paddedBody p body :=
    zeroChecksum_packHeader_append _ _
  rw [hzero]
  rfl

theorem headerSize_le_buildReport_length (p : Params) (e c ix : Byte) (body : List Byte) :
    headerSize ≤ (buildReport p e c ix body).length :=
  headerSize_le_packHeader_append _ _

theorem headerOf_buildReport (p : Params) (e c ix : Byte) (body : List Byte) :
    headerOf (buildReport p e c ix body) =
      ⟨p.reportId, e, csum (zeroChecksum (buildReport p e c ix body)), 0, BitVec.ofNat 10 (body.length + 4), c,
        ix⟩ :=
  (congrArg headerOf (buildReport_eq p e c ix body)).trans (headerOf_responseBytes ..)

theorem parseHeader_buildReport (p : Params) (e c ix : Byte) (body : List Byte) :
    parseHeader (buildReport p e c ix body) =
      some ⟨p.reportId, e, csum (zeroChecksum (buildReport p e c ix body)), 0, BitVec.ofNat 10 (body.length + 4), c,
        ix⟩ := by
  rw [parseHeader_some (headerSize_le_buildReport_length ..), headerOf_buildReport]

/-- The stored field is the recomputed sum (41_report_codec.md R89). -/
theorem verify_buildReport (p : Params) (e c ix : Byte) (body : List Byte) :
    verify (buildReport p e c ix body) = true := by
  have hfield : le16 (buildReport p e c ix body) 2 = csum (zeroChecksum (buildReport p e c ix body)) := by
    rw [← headerOf_checksum, headerOf_buildReport]
  exact verify_eq_true_iff.2 ⟨headerSize_le_buildReport_length .., hfield.symm⟩

/-- The eight header bytes of a built report, its 16-bit fields as numbers, then its padded body. -/
theorem buildReport_bytes (p : Params) (e c ix : Byte) (body : List Byte) :
    buildReport p e c ix body =
      [p.reportId, e, BitVec.ofNat 8 (csum (zeroChecksum (buildReport p e c ix body))).toNat,
        BitVec.ofNat 8 ((csum (zeroChecksum (buildReport p e c ix body))).toNat / 256),
        BitVec.ofNat 8 ((body.length + 4) % 1024), BitVec.ofNat 8 ((body.length + 4) % 1024 / 256), c, ix] ++
        paddedBody p body := by
  have hfield : (0 : BitVec 6).toNat * 1024 + (BitVec.ofNat 10 (body.length + 4)).toNat = (body.length + 4) % 1024 := by
    simp
  rw [← lo8_eq_ofNat, ← hi8_eq_ofNat, ← hfield, ← responseBytes_eq]
  exact buildReport_eq p e c ix body

/-- From offset 8 on a built report is its padded body. -/
theorem buildReport_getElem?_add_eight (p : Params) (e c ix : Byte) (body : List Byte) (j : Nat) :
    (buildReport p e c ix body)[8 + j]? = (paddedBody p body)[j]? := by
  rw [Nat.add_comm]
  rfl

end Sys2Proof.Machine

namespace Sys2Proof.Proofs

open Sys2Proof.Machine

/-- Settles O9: the report is its eight header bytes and the padded body, and its checksum field holds the sum that
VERIFY recomputes. -/
theorem buildLaysOutTheReport : Obligations.BuildLaysOutTheReport := by
  intro e c ix body s hp
  have hcap := Params.bodyCap_add_eight hp
  have hbyte (i : Nat) := congrArg (·[i]?) (buildReport_bytes s.cfg e c ix body)
  refine ⟨_, exec_build e c ix body s, buildReport_length hp e c ix body, hbyte 0, hbyte 1, hbyte 4, hbyte 5, hbyte 6,
    hbyte 7, fun j hj hfit => ?_, fun j hj hfit => ?_, hbyte 2, hbyte 3, verify_buildReport ..,
    parseHeader_buildReport ..⟩
  · rw [buildReport_getElem?_add_eight, paddedBody_getElem?_of_body hj (by omega)]
  · obtain ⟨k, rfl⟩ := Nat.exists_eq_add_of_le (Nat.le_of_add_right_le hj)
    rw [buildReport_getElem?_add_eight, paddedBody_getElem?_of_padding (by omega) (by omega)]

/-- Settles O10: a built report verifies, so a changed byte of its field is detected; and the length of a body that
fits is below the field's modulus. -/
theorem buildThenVerifyAndParse : Obligations.BuildThenVerifyAndParse := by
  refine fun p e c ix body _ => ⟨verify_buildReport p e c ix body, fun i y hi hne => ?_, fun hmax hfit =>
    ⟨_, parseHeader_buildReport p e c ix body, rfl, rfl, rfl, ?_⟩⟩
  · have hlen : i < (buildReport p e c ix body).length := by
      have := headerSize_le_buildReport_length p e c ix body
      rw [headerSize] at this
      omega
    have hx := getElem?_eq_some_byteAt hlen
    exact verify_set_eq_false (verify_buildReport p e c ix body) hx fun heq => hne (heq ▸ hx)
  · rw [headerSize] at hfit
    rw [BitVec.toNat_ofNat, Nat.mod_eq_of_lt (by omega)]

/-- Settles O12: PARSE gives the header, whose fields are read at their offsets. -/
theorem parseReadsTheHeaderFields : Obligations.ParseReadsTheHeaderFields := by
  intro B s hB
  rw [exec_parse_of_header hB, headerOf_eq]
  rfl

/-- Settles O13: a missing header is the one check of PARSE's operand. -/
theorem parseOfAShortBufferIsRefused : Obligations.ParseOfAShortBufferIsRefused :=
  fun _ _ hB => exec_of_defect (if_pos hB)

/-- Settles O14: the filter's checks on the header's fields; a read of at least 8 bytes has a header. -/
theorem qualifyIsTheFiveChecks : Obligations.QualifyIsTheFiveChecks := by
  intro n B c s hB
  refine ⟨_, exec_qualify_of_countOk hB c s, qualify_eq_true_iff.trans (and_congr_right fun hn => ?_)⟩
  have hlen : headerSize ≤ B.length := by
    rw [headerSize] at hn ⊢
    omega
  exact and_iff_right hlen

/-- Settles O15: the operand's count is its one check, and the size is read as two words. -/
theorem sizedecReadsWidthAndHeight : Obligations.SizedecReadsWidthAndHeight := by
  intro n B s hB
  rw [exec_sizedec_of_countOk hB, decodeSize_eq]

end Sys2Proof.Proofs
end

section
/-! The frame accumulator (42_frame_accumulator.md): what CHUNK and ACCUM answer, when the extractor gives no chunk,
and two runs of stores into one canonical FB. -/

namespace Sys2Proof.Machine

/-! ### The chunk extractor -/

theorem exec_chunk_of_header {n : Int} {B : List Byte} (h : CountOk n B) (hB : headerSize ≤ B.length) (s : State) :
    exec (.chunk n B) s = .next { s with out := some (.chunk (extractChunk n B)) } := by
  have hwf : WellFormed s.cfg (.chunk n B) := by
    rw [WellFormed, Instr.defect, if_neg (not_not_intro h), if_neg (Nat.not_lt.2 hB)]
  exact whenWellFormed_of hwf _

theorem headerOf_len_toNat (B : List Byte) : (headerOf B).len.toNat = natLe16 B 4 % 1024 := by
  rw [headerOf_eq, BitVec.toNat_ofNat]
  exact Nat.mod_mod _ 1024

theorem le32_toNat_eq_natLe32 (B : List Byte) (i : Nat) : (le32 B i).toNat = natLe32 B i := by
  rw [le32_toNat, le16_toNat_eq_natLe16, le16_toNat_eq_natLe16]
  rfl

/-- A chunk is discarded when its length field leaves no room for an address or is not backed by the bytes received. -/
theorem extractChunk_eq_none {n : Int} {B : List Byte}
    (h : (headerOf B).len.toNat < 8 ∨ n < ((headerOf B).len.toNat : Int) + 4) : extractChunk n B = none := by
  refine Option.eq_none_iff_forall_ne_some.2 fun c hc => ?_
  obtain ⟨hlen, hfit, -⟩ := extractChunk_eq_some.1 hc
  omega

/-! ### ACCUM -/

/-- The next state of an ACCUM that accepts its chunk (42_frame_accumulator.md R98). `exec_accum_of_inRange` ties it
to the model. -/
def acceptChunk (addr : U32) (data : List Byte) (s : State) : State :=
  { s with fb := s.fb.writeBytes addr.toNat data, maxEnd := max s.maxEnd (addr.toNat + data.length),
           out := some (.verdict true) }

theorem exec_accum_of_inRange {addr : U32} {data : List Byte} {s : State}
    (h : addr.toNat + data.length ≤ s.expected) : exec (.accum addr data) s = .next (acceptChunk addr data s) := by
  rcases accumulate_cases addr data s with ⟨-, he⟩ | ⟨hout, -⟩
  · exact congrArg (fun r : State × Bool => giveResult (.verdict r.2) r.1) he
  · exact absurd h (Nat.not_le.2 hout)

theorem eq_acceptChunk_of_exec_accum {addr : U32} {data : List Byte} {s u : State}
    (h : addr.toNat + data.length ≤ s.expected) (hu : exec (.accum addr data) s = .next u) :
    u = acceptChunk addr data s :=
  Host.Outcome.next.inj (hu.symm.trans (exec_accum_of_inRange h))

@[simp] theorem acceptChunk_expected (addr : U32) (data : List Byte) (s : State) :
    (acceptChunk addr data s).expected = s.expected := rfl

theorem exec_accum_of_outOfRange {addr : U32} {data : List Byte} {s : State}
    (h : s.expected < addr.toNat + data.length) :
    exec (.accum addr data) s = .next { s with out := some (.verdict false) } := by
  rcases accumulate_cases addr data s with ⟨hin, -⟩ | ⟨-, he⟩
  · exact absurd hin (Nat.not_le.2 h)
  · exact congrArg (fun r : State × Bool => giveResult (.verdict r.2) r.1) he

/-! ### Two runs of stores -/

/-- Runs of stores to disjoint ranges of a canonical memory commute (42_frame_accumulator.md R99). -/
theorem Memory.writeBytes_comm {m : Memory} (hm : m.wf = true) {a b : Nat} {da db : List Byte}
    (hdisj : a + da.length ≤ b ∨ b + db.length ≤ a) :
    (m.writeBytes a da).writeBytes b db = (m.writeBytes b db).writeBytes a da := by
  refine Memory.ext (wf_writeBytes (wf_writeBytes hm a da) b db) (wf_writeBytes (wf_writeBytes hm b db) a da)
    fun x => ?_
  simp only [get?_writeBytes]
  by_cases ha : a ≤ x ∧ x < a + da.length
  · rw [if_pos ha, if_pos ha, if_neg (by omega)]
  · rw [if_neg ha, if_neg ha]

/-- Storing the same bytes again leaves a canonical memory (42_frame_accumulator.md R99). -/
theorem Memory.writeBytes_writeBytes_self {m : Memory} (hm : m.wf = true) (a : Nat) (data : List Byte) :
    (m.writeBytes a data).writeBytes a data = m.writeBytes a data := by
  have hw := wf_writeBytes hm a data
  refine Memory.ext (wf_writeBytes hw a data) hw fun x => ?_
  simp only [get?_writeBytes]
  by_cases hx : a ≤ x ∧ x < a + data.length
  · rw [if_pos hx, if_pos hx]
  · rw [if_neg hx]

/-! ### Two accepted chunks -/

theorem maxEnd_acceptChunk_comm (a b : U32) (da db : List Byte) (s : State) :
    (acceptChunk b db (acceptChunk a da s)).maxEnd = (acceptChunk a da (acceptChunk b db s)).maxEnd :=
  max_right_comm _ _ _

theorem acceptChunk_acceptChunk_self {s : State} (hwf : s.fb.wf = true) (addr : U32) (data : List Byte) :
    acceptChunk addr data (acceptChunk addr data s) = acceptChunk addr data s := by
  simp only [acceptChunk, Memory.writeBytes_writeBytes_self hwf, max_assoc, max_self]

end Sys2Proof.Machine

namespace Sys2Proof.Proofs

open Sys2Proof.Machine

/-- Settles O16: the header is there, so CHUNK runs, and the length field alone decides and measures the chunk. -/
theorem chunkIsMeasuredByTheLengthField : Obligations.ChunkIsMeasuredByTheLengthField := by
  intro n B s hB hn len
  have hlen : (headerOf B).len.toNat = len := headerOf_len_toNat B
  have hheader : headerSize ≤ B.length := by
    rw [headerSize]
    omega
  refine ⟨_, exec_chunk_of_header hB hheader s, fun hnone => extractChunk_eq_none (hlen ▸ hnone), fun hroom hfit => ?_⟩
  refine ⟨_, extractChunk_eq_some.2 ⟨hlen ▸ hroom, hlen ▸ hfit, rfl⟩, le32_toNat_eq_natLe32 B 8,
    congrArg (· - 8) hlen, ?_, fun j hj => ?_⟩
  · rw [hlen, List.length_take, List.length_drop]
    omega
  · rw [hlen, List.getElem?_take_of_lt hj, List.getElem?_drop]

/-- Settles O18, by the two answers of ACCUM. -/
theorem accumStoresInRangeChunksOnly : Obligations.AccumStoresInRangeChunksOnly :=
  fun addr data s =>
    ⟨fun hin => ⟨_, exec_accum_of_inRange hin, rfl, rfl, fbByte_writeBytes s addr.toNat data, rfl⟩,
      exec_accum_of_outOfRange⟩

/-- Settles O19: MAX_END is a maximum over both ends, and the stores commute when their ranges are disjoint. -/
theorem accumOrderDoesNotMatterForDisjointChunks : Obligations.AccumOrderDoesNotMatterForDisjointChunks := by
  intro a b da db s s1 s2 r1 r2 hwf ha hb hs1 hs2 hr1 hr2
  obtain rfl := eq_acceptChunk_of_exec_accum ha hs1
  obtain rfl := eq_acceptChunk_of_exec_accum hb hr1
  obtain rfl := eq_acceptChunk_of_exec_accum (acceptChunk_expected a da s ▸ hb) hs2
  obtain rfl := eq_acceptChunk_of_exec_accum (acceptChunk_expected b db s ▸ ha) hr2
  exact ⟨maxEnd_acceptChunk_comm a b da db s, Memory.writeBytes_comm hwf⟩

/-- Settles O20: an accepted chunk is accepted again and leaves its own bytes and its own end; a dropped one is
dropped again. -/
theorem accumOfTheSameChunkTwiceIsOnce : Obligations.AccumOfTheSameChunkTwiceIsOnce := by
  intro a d s s1 hwf hs1
  rcases Nat.lt_or_ge s.expected (a.toNat + d.length) with hout | hin
  · obtain rfl := Host.Outcome.next.inj ((exec_accum_of_outOfRange hout).symm.trans hs1)
    exact exec_accum_of_outOfRange hout
  · obtain rfl := eq_acceptChunk_of_exec_accum hin hs1
    have hagain : a.toNat + d.length ≤ (acceptChunk a d s).expected := by rwa [acceptChunk_expected]
    rw [exec_accum_of_inRange hagain, acceptChunk_acceptChunk_self hwf]

end Sys2Proof.Proofs
end

section
/-! The capture-cycle sequencer (43_sequencer.md): the equation of each event by the rows of its transition table, what
a read uses and how it then decides, and from them how a cycle starts, goes on and ends. -/

namespace Sys2Proof.Machine

/-! ### An event that is taken -/

/-- The state that the effect of an event at the time `t` starts from (10_state.md R25, log 12).
`exec_of_event_of_timeOk` ties it to `exec`. -/
def State.stamped (s : State) (t : Nat) : State := { s with tPrev := some t }

/-- With both guards open an event answers its effect. -/
theorem exec_of_event_of_timeOk {i : Instr} {t : Nat} {s : State} (he : eventTime i = some t)
    (hi : WellFormed s.cfg i) (ht : TimeOk s t) : exec i s = .next (effectOf i t (s.stamped t)) := by
  rw [exec_of_event he, whenWellFormed_of hi, onEvent_of_timeOk ht]
  rfl

theorem exec_txOk_of_timeOk {t : Nat} {s : State} (ht : TimeOk s t) :
    exec (.txOk t) s = .next (txOkEffect t (s.stamped t)) :=
  exec_of_event_of_timeOk rfl rfl ht

theorem exec_rx_of_wellFormed {n : Int} {B : List Byte} {t : Nat} {s : State} (hi : WellFormed s.cfg (.rx n B t))
    (ht : TimeOk s t) : exec (.rx n B t) s = .next (rxEffect n B t (s.stamped t)) :=
  exec_of_event_of_timeOk rfl hi ht

/-! ### Events without a row -/

/-- STATE has a row for the event in the transition table (43_sequencer.md R110). `effectOf_of_not_hasRow` ties it to
the model. -/
def HasRow (i : Instr) (st : SeqState) : Prop :=
  match i with
  | .capStart _ _ _ => st.acceptsStart = true
  | .qStart _ => st.acceptsStart = true
  | .txOk _ => st = .requesting
  | .txFail _ => st = .requesting
  | _ => st = .collecting

theorem effectOf_of_not_hasRow {i : Instr} {t : Nat} {s : State} (h : ¬ HasRow i s.state) : effectOf i t s = s := by
  cases i
  case capStart | qStart | txOk | txFail | rxFatal | rx | rspSysinfo | rspScreenbuf => exact if_neg h
  all_goals rfl

/-- An event without a row changes nothing but the model's own timestamp (43_sequencer.md R111). -/
theorem exec_of_not_hasRow {i : Instr} {t : Nat} {s : State} (he : eventTime i = some t) (hi : WellFormed s.cfg i)
    (ht : TimeOk s t) (h : ¬ HasRow i s.state) : exec i s = .next { s with tPrev := some t } := by
  rw [exec_of_event_of_timeOk he hi ht, effectOf_of_not_hasRow (s := s.stamped t) h]
  rfl

theorem not_acceptsStart {st : SeqState}
    (h : st = .requesting ∨ st = .collecting ∨ st = .deviceError ∨ st = .invalidDimensions) :
    ¬ st.acceptsStart = true := by
  rcases h with rfl | rfl | rfl | rfl <;> nofun

/-! ### The start events -/

theorem setDimensions_eq (w h : U16) (s : State) :
    setDimensions w h s =
      { s with width := w, height := h, fb := if w = s.width ∧ h = s.height then s.fb else [],
               fbGen := if w = s.width ∧ h = s.height then s.fbGen else s.fbGen + 1 } := by
  by_cases hd : w = s.width ∧ h = s.height
  · rw [setDimensions, if_pos hd, if_pos hd, if_pos hd, hd.1, hd.2]
  · rw [setDimensions, if_neg hd, if_neg hd, if_neg hd]

theorem capStartEffect_of_zero {w h : U16} {s : State} (hs : s.state.acceptsStart = true) (hz : w = 0 ∨ h = 0)
    (t : Nat) :
    capStartEffect w h t s =
      { s with mode := .capture, state := .invalidDimensions, result := .invalidDimensions, elapsed := 0,
               done := some .invalidDimensions } := by
  rw [capStartEffect, if_pos hs, if_pos hz]

theorem capStartEffect_of_nonzero {w h : U16} {s : State} (hs : s.state.acceptsStart = true) (hw : w ≠ 0)
    (hh : h ≠ 0) (t : Nat) :
    capStartEffect w h t s = beginCycle .capture t { setDimensions w h s with maxEnd := 0 } := by
  rw [capStartEffect, if_pos hs, if_neg (not_or_intro hw hh)]

theorem qStartEffect_of_acceptsStart {s : State} (hs : s.state.acceptsStart = true) (t : Nat) :
    qStartEffect t s = beginCycle .query t { s with qWidth := 0, qHeight := 0, qValid := false } :=
  if_pos hs

/-! ### The transport's answer to the request -/

theorem txOkEffect_of_inTime {t : Nat} {s : State} (hs : s.state = .requesting)
    (ht : t - s.tStart ≤ s.cfg.cmdTimeoutMs) :
    txOkEffect t s = { s with txValid := false, state := .collecting } := by
  rw [txOkEffect, if_pos hs, if_neg (mt deadlinePassed_iff.1 (Nat.not_lt.2 ht))]

theorem txOkEffect_of_late {t : Nat} {s : State} (hs : s.state = .requesting)
    (ht : s.cfg.cmdTimeoutMs < t - s.tStart) :
    txOkEffect t s = endCycle .timedOut (if s.mode = .capture then .noData else .queryNone) t s := by
  rw [txOkEffect, if_pos hs, if_pos (deadlinePassed_iff.2 ht)]
  cases s.mode <;> rfl

theorem txFailEffect_of_capture {s : State} (hs : s.state = .requesting) (hm : s.mode = .capture) (t : Nat) :
    txFailEffect t s = endCycle .deviceError .deviceError t s := by
  simp only [txFailEffect, hs, hm, if_true]

theorem txFailEffect_of_query {s : State} (hs : s.state = .requesting) (hm : s.mode = .query) (t : Nat) :
    txFailEffect t s = endCycle .timedOut .queryNone t s := by
  simp only [txFailEffect, hs, hm, if_true]

theorem rxFatalEffect_of_collecting {s : State} (hs : s.state = .collecting) (t : Nat) :
    rxFatalEffect t s = endCycle .deviceError .deviceError t s :=
  if_pos hs

/-! ### A read in Query mode -/

/-- `s` with the read's report counted if it qualifies for the command `c` (43_sequencer.md R116, R128).
`usePacket_of_noChunk` and `queryRead_of_late` tie it to the model. -/
def countPacket (c : Byte) (n : Int) (B : List Byte) (s : State) : State :=
  { s with pktCount := if qualify s.cfg n B c then s.pktCount + 1 else s.pktCount }

theorem countPacket_of_not_qualify {c : Byte} {n : Int} {B : List Byte} {s : State}
    (h : qualify s.cfg n B c = false) : countPacket c n B s = s := by
  rw [countPacket, h]
  rfl

theorem queryRead_of_late {n : Int} {B : List Byte} {t : Nat} {s : State}
    (h : qualify s.cfg n B s.cfg.cmdSysinfo = true → decodeSize n B = none) (ht : s.cfg.cmdTimeoutMs < t - s.tStart) :
    queryRead n B t s = endCycle .timedOut .queryNone t (countPacket s.cfg.cmdSysinfo n B s) := by
  rcases queryRead_cases n B t s with ⟨_, _, hq, hd, -⟩ | ⟨_, rfl, -, ⟨-, he⟩ | ⟨hin, -⟩⟩
  · exact nomatch (h hq).symm.trans hd
  · exact he
  · omega

theorem queryRead_of_inTime {n : Int} {B : List Byte} {t : Nat} {s : State}
    (h : qualify s.cfg n B s.cfg.cmdSysinfo = true → decodeSize n B = none) (ht : t - s.tStart ≤ s.cfg.cmdTimeoutMs) :
    queryRead n B t s = countPacket s.cfg.cmdSysinfo n B s := by
  rcases queryRead_cases n B t s with ⟨_, _, hq, hd, -⟩ | ⟨_, rfl, -, ⟨hlate, -⟩ | ⟨-, he⟩⟩
  · exact nomatch (h hq).symm.trans hd
  · omega
  · exact he

theorem decodeSize_of_short {n : Int} (h : n < 12) (B : List Byte) : decodeSize n B = none := by
  rw [decodeSize_eq, if_pos h]

/-! ### A read in Capture mode: use the packet -/

/-- The chunk that a read stores, if it stores one (43_sequencer.md R116). `usePacket_of_accepted` and
`usePacket_of_noChunk` tie it to the model. -/
def acceptedChunk (s : State) (n : Int) (B : List Byte) : Option Chunk :=
  if qualify s.cfg n B s.cfg.cmdScreenbuf then
    (extractChunk n B).filter fun c => decide (c.addr.toNat + c.dlen ≤ s.expected)
  else none

theorem acceptedChunk_eq_some {s : State} {n : Int} {B : List Byte} {c : Chunk} :
    acceptedChunk s n B = some c ↔
      qualify s.cfg n B s.cfg.cmdScreenbuf = true ∧ extractChunk n B = some c ∧
        c.addr.toNat + c.dlen ≤ s.expected := by
  cases hq : qualify s.cfg n B s.cfg.cmdScreenbuf <;> simp [acceptedChunk, hq, Option.filter_eq_some_iff]

/-- The operands that every read is defined on give a chunk exactly the data its length field measures. -/
theorem length_of_extractChunk {p : Params} {n : Int} {B : List Byte} {t : Nat} {c : Chunk}
    (hi : WellFormed p (.rx n B t)) (hc : extractChunk n B = some c) : c.data.length = c.dlen := by
  obtain ⟨hB, hn⟩ := wellFormed_rx.1 hi
  obtain ⟨-, hlen, -⟩ := extractChunk_le_dataCap hB hn hc
  exact hlen

theorem usePacket_of_accepted {n : Int} {B : List Byte} {t : Nat} {s : State} {c : Chunk}
    (hi : WellFormed s.cfg (.rx n B t)) (h : acceptedChunk s n B = some c) :
    usePacket n B t s = storeChunk c t s := by
  obtain ⟨hq, hc, hr⟩ := acceptedChunk_eq_some.1 h
  exact usePacket_of_chunk hq hc (length_of_extractChunk hi hc ▸ hr)

theorem usePacket_of_noChunk {n : Int} {B : List Byte} {t : Nat} {s : State} (hi : WellFormed s.cfg (.rx n B t))
    (h : acceptedChunk s n B = none) : usePacket n B t s = countPacket s.cfg.cmdScreenbuf n B s := by
  rcases usePacket_cases n B t s with ⟨hq, he⟩ | ⟨hq, -, he⟩ | ⟨c, hq, hc, hr, -⟩
  · rw [he, countPacket_of_not_qualify hq]
  · rw [he, countPacket, hq]
    rfl
  · have hsome : acceptedChunk s n B = some c :=
      acceptedChunk_eq_some.2 ⟨hq, hc, length_of_extractChunk hi hc ▸ hr⟩
    exact nomatch h.symm.trans hsome

/-- What the packet of a read leaves in the four registers it can write (43_sequencer.md R116 step 1). -/
structure PacketUsed (n : Int) (B : List Byte) (t : Nat) (s v : State) : Prop where
  frame : v = { s with pktCount := v.pktCount, tLast := v.tLast, fb := v.fb, maxEnd := v.maxEnd }
  pktCount : v.pktCount = if qualify s.cfg n B s.cfg.cmdScreenbuf then s.pktCount + 1 else s.pktCount
  dropped : acceptedChunk s n B = none → v.fb = s.fb ∧ v.maxEnd = s.maxEnd ∧ v.tLast = s.tLast
  stored : ∀ c, acceptedChunk s n B = some c →
    (∀ a, v.fbByte a =
      if c.addr.toNat ≤ a ∧ a < c.addr.toNat + c.dlen then c.data.getD (a - c.addr.toNat) 0 else s.fbByte a) ∧
    v.maxEnd = max s.maxEnd (c.addr.toNat + c.dlen) ∧ v.tLast = t

theorem usePacket_packetUsed {n : Int} {B : List Byte} {t : Nat} {s : State} (hi : WellFormed s.cfg (.rx n B t)) :
    PacketUsed n B t s (usePacket n B t s) := by
  cases hacc : acceptedChunk s n B with
  | none =>
    rw [usePacket_of_noChunk hi hacc]
    exact ⟨rfl, rfl, fun _ => ⟨rfl, rfl, rfl⟩, fun c hc => nomatch hacc.symm.trans hc⟩
  | some c =>
    obtain ⟨hq, hc, -⟩ := acceptedChunk_eq_some.1 hacc
    rw [usePacket_of_accepted hi hacc]
    refine ⟨rfl, by rw [hq]; rfl, fun hnone => (nomatch hacc.symm.trans hnone), fun d hd => ?_⟩
    cases hacc.symm.trans hd
    rw [← length_of_extractChunk hi hc]
    exact ⟨fbByte_writeBytes s c.addr.toNat c.data, rfl, rfl⟩

theorem PacketUsed.exists_eq {n : Int} {B : List Byte} {t : Nat} {s v : State} (h : PacketUsed n B t s v) :
    ∃ k l f e, v = { s with pktCount := k, tLast := l, fb := f, maxEnd := e } :=
  ⟨_, _, _, _, h.frame⟩

/-! ### A read in Capture mode: does the cycle end? -/

theorem captureEnd_of_late {t : Nat} {s : State} (hc : s.maxEnd < s.expected)
    (ht : s.cfg.cmdTimeoutMs < t - s.tStart) (n : Int) :
    captureEnd n t s = endCycle .timedOut (if 0 < s.maxEnd then .partialFrame else .noData) t s := by
  rcases captureEnd_cases n t s with ⟨hcov, -⟩ | ⟨-, -, hpos, he⟩ | ⟨-, -, hzero, he⟩ | ⟨-, hin, -⟩
  · omega
  · rw [he, if_pos hpos]
  · rw [he, if_neg (by omega)]
  · omega

theorem captureEnd_of_inTime {t : Nat} {s : State} (hc : s.maxEnd < s.expected)
    (ht : t - s.tStart ≤ s.cfg.cmdTimeoutMs) (n : Int) : captureEnd n t s = s := by
  rcases captureEnd_cases n t s with ⟨hcov, -⟩ | ⟨-, hlate, -⟩ | ⟨-, hlate, -⟩ | ⟨-, -, he⟩
  · omega
  · omega
  · omega
  · exact he

/-- How step 2 of a read in Capture mode decides from the registers that step 1 left (43_sequencer.md R116, R119,
R121, R125). -/
structure CaptureDecided (t : Nat) (v u : State) : Prop where
  frame : OnlyCycleChanged v u
  covered : v.expected ≤ v.maxEnd → u.state = .complete ∧ u.result = .complete
  late : v.maxEnd < v.expected → v.cfg.cmdTimeoutMs < t - v.tStart →
    u.state = .timedOut ∧ u.result = (if 0 < v.maxEnd then .partialFrame else .noData)
  ended : v.expected ≤ v.maxEnd ∨ v.cfg.cmdTimeoutMs < t - v.tStart →
    u.elapsed = t - v.tStart ∧ u.txValid = false ∧ u.done = some u.result
  goesOn : v.maxEnd < v.expected → t - v.tStart ≤ v.cfg.cmdTimeoutMs →
    u.state = v.state ∧ u.result = v.result ∧ u.elapsed = v.elapsed ∧ u.txValid = v.txValid ∧ u.done = v.done

theorem captureEnd_decided (n : Int) (t : Nat) (s : State) : CaptureDecided t s (captureEnd n t s) := by
  have hframe := captureEnd_frame n t s
  rcases Nat.lt_or_ge s.maxEnd s.expected with hc | hc
  · rcases Nat.lt_or_ge s.cfg.cmdTimeoutMs (t - s.tStart) with ht | ht
    · rw [captureEnd_of_late hc ht] at hframe ⊢
      exact ⟨hframe, fun _ => by omega, fun _ _ => ⟨rfl, rfl⟩, fun _ => ⟨rfl, rfl, rfl⟩, fun _ _ => by omega⟩
    · rw [captureEnd_of_inTime hc ht] at hframe ⊢
      exact ⟨hframe, fun _ => by omega, fun _ _ => by omega, fun _ => by omega,
        fun _ _ => ⟨rfl, rfl, rfl, rfl, rfl⟩⟩
  · rw [captureEnd_of_covered hc] at hframe ⊢
    exact ⟨hframe, fun _ => ⟨rfl, rfl⟩, fun _ _ => by omega, fun _ => ⟨rfl, rfl, rfl⟩, fun _ _ => by omega⟩

theorem OnlyCycleChanged.exists_eq {s u : State} (h : OnlyCycleChanged s u) :
    ∃ st r el x d, u = { s with state := st, result := r, elapsed := el, txValid := x, done := d } :=
  ⟨_, _, _, _, _, h⟩

/-! ### A read past the deadline -/

theorem OnlyReadChanged.cfg_eq {s u : State} (h : OnlyReadChanged s u) : u.cfg = s.cfg :=
  (congrArg State.cfg h :)

theorem OnlyReadChanged.tStart_eq {s u : State} (h : OnlyReadChanged s u) : u.tStart = s.tStart :=
  (congrArg State.tStart h :)

/-- Past the deadline a read in either mode ends the cycle (43_sequencer.md R121, R128). -/
theorem rxEffect_ends_of_late {t : Nat} {s : State} (hs : s.state = .collecting)
    (ht : s.cfg.cmdTimeoutMs < t - s.tStart) (n : Int) (B : List Byte) :
    ∃ st r v, (st = .complete ∨ st = .timedOut) ∧ rxEffect n B t s = endCycle st r t v := by
  cases hm : s.mode with
  | capture =>
    have hv := (usePacket_received (t := t) n B hs hm).frame
    have hlate : (usePacket n B t s).cfg.cmdTimeoutMs < t - (usePacket n B t s).tStart := by
      rw [hv.cfg_eq, hv.tStart_eq]
      exact ht
    rw [rxEffect_of_capture hs hm]
    rcases Nat.lt_or_ge (usePacket n B t s).maxEnd (usePacket n B t s).expected with hc | hc
    · exact ⟨_, _, _, .inr rfl, captureEnd_of_late hc hlate n⟩
    · exact ⟨_, _, _, .inl rfl, captureEnd_of_covered hc n t⟩
  | query =>
    rw [rxEffect_of_query hs hm]
    rcases queryRead_cases n B t s with ⟨_, _, -, -, he⟩ | ⟨_, -, -, ⟨-, he⟩ | ⟨hin, -⟩⟩
    · exact ⟨_, _, _, .inl rfl, he⟩
    · exact ⟨_, _, _, .inr rfl, he⟩
    · omega

/-! ### The empty read -/

theorem qualify_of_short {n : Int} (h : n < (headerSize : Int)) (p : Params) (B : List Byte) (c : Byte) :
    qualify p n B c = false :=
  if_pos h

/-- A read with no bytes is defined for every count that is not positive (43_sequencer.md R117). -/
theorem wellFormed_rx_nil {n : Int} (hn : n ≤ 0) (p : Params) (t : Nat) : WellFormed p (.rx n [] t) :=
  wellFormed_rx.2 ⟨(Int.toNat_of_nonpos hn).symm, by omega⟩

section
variable {n : Int} (hn : n ≤ 0) {t : Nat} {s : State}
include hn

theorem not_qualify_of_nonpos (p : Params) (B : List Byte) (c : Byte) : qualify p n B c = false :=
  qualify_of_short (by rw [headerSize]; omega) p B c

theorem usePacket_nil : usePacket n [] t s = s :=
  if_neg (by rw [not_qualify_of_nonpos hn]; nofun)

theorem rxEffect_nil_of_capture (hs : s.state = .collecting) (hm : s.mode = .capture) :
    rxEffect n [] t s = captureEnd n t s := by
  rw [rxEffect_of_capture hs hm, usePacket_nil hn]

theorem rxEffect_nil_of_inTime (hs : s.state = .collecting) (hc : s.mode = .capture → s.maxEnd < s.expected)
    (ht : t - s.tStart ≤ s.cfg.cmdTimeoutMs) : rxEffect n [] t s = s := by
  have hq := not_qualify_of_nonpos hn s.cfg [] s.cfg.cmdSysinfo
  cases hm : s.mode with
  | capture => rw [rxEffect_nil_of_capture hn hs hm, captureEnd_of_inTime (hc hm) ht]
  | query =>
    rw [rxEffect_of_query hs hm, queryRead_of_inTime (fun h => nomatch hq.symm.trans h) ht,
      countPacket_of_not_qualify hq]

theorem rxEffect_nil_of_late (hs : s.state = .collecting) (hc : s.mode = .capture → s.maxEnd < s.expected)
    (ht : s.cfg.cmdTimeoutMs < t - s.tStart) :
    rxEffect n [] t s =
      endCycle .timedOut
        (if s.mode = .query then .queryNone else if 0 < s.maxEnd then .partialFrame else .noData) t s := by
  have hq := not_qualify_of_nonpos hn s.cfg [] s.cfg.cmdSysinfo
  cases hm : s.mode with
  | capture =>
    rw [rxEffect_nil_of_capture hn hs hm, captureEnd_of_late (hc hm) ht]
    rfl
  | query =>
    rw [rxEffect_of_query hs hm, queryRead_of_late (fun h => nomatch hq.symm.trans h) ht,
      countPacket_of_not_qualify hq]
    rfl

/-- The count of a read with no bytes does not matter: in Collecting by its place against coverage and the deadline,
elsewhere because the event has no row (43_sequencer.md R117). -/
theorem rxEffect_nil_eq_zero : rxEffect n [] t s = rxEffect 0 [] t s := by
  have h0 : (0 : Int) ≤ 0 := Int.le_refl 0
  by_cases hs : s.state = .collecting
  case neg => exact (if_neg hs).trans (if_neg hs).symm
  by_cases hc : s.mode = .capture → s.maxEnd < s.expected
  · rcases Nat.lt_or_ge s.cfg.cmdTimeoutMs (t - s.tStart) with ht | ht
    · rw [rxEffect_nil_of_late hn hs hc ht, rxEffect_nil_of_late h0 hs hc ht]
    · rw [rxEffect_nil_of_inTime hn hs hc ht, rxEffect_nil_of_inTime h0 hs hc ht]
  · obtain ⟨hm, hcov⟩ := Classical.not_imp.1 hc
    rw [rxEffect_nil_of_capture hn hs hm, rxEffect_nil_of_capture h0 hs hm, captureEnd_of_covered (Nat.not_lt.1 hcov),
      captureEnd_of_covered (Nat.not_lt.1 hcov)]

theorem exec_rx_nil_eq_zero : exec (.rx n [] t) s = exec (.rx 0 [] t) s := by
  have effect_eq : rxEffect n [] t = rxEffect 0 [] t := funext fun _ => rxEffect_nil_eq_zero hn
  change execRx n [] t s = execRx 0 [] t s
  rw [execRx, execRx, whenWellFormed_of (wellFormed_rx_nil hn s.cfg t),
    whenWellFormed_of (wellFormed_rx_nil (Int.le_refl 0) s.cfg t), effect_eq]

end

/-! ### Coverage of a running capture -/

theorem uncovered_of_terminal {s : State} (h : s.state.terminal = true) : s.Uncovered :=
  fun hrun => nomatch (SeqState.not_running_of_terminal h).symm.trans hrun

theorem uncovered_of_query {s : State} (h : s.mode = .query) : s.Uncovered :=
  fun _ hm => nomatch h.symm.trans hm

/-- A frame of two non-zero dimensions has room (00_scope.md R5). -/
theorem State.expected_pos {s : State} (hw : s.width ≠ 0) (hh : s.height ≠ 0) : 0 < s.expected := by
  have pos {v : U16} (h : v ≠ 0) : 0 < v.toNat := Nat.pos_of_ne_zero fun h0 => h (BitVec.eq_of_toNat_eq h0)
  exact Nat.mul_pos (Nat.mul_pos (pos hw) (pos hh)) Nat.two_pos

/-- Of the events only a read's chunk raises MAX_END (10_state.md R28). -/
theorem maxEnd_effectOf_le {i : Instr} (hi : readEvent i = false) (t : Nat) (s : State) :
    (effectOf i t s).maxEnd ≤ s.maxEnd := by
  cases i
  case capStart w h _ =>
    change (capStartEffect w h t s).maxEnd ≤ s.maxEnd
    rcases capStartEffect_cases w h t s with ⟨-, he⟩ | ⟨-, -, he⟩ | ⟨-, -, -, he⟩ <;> rw [he]
    exact Nat.zero_le _
  case qStart =>
    obtain ⟨-, -, -, -, hmax⟩ := qStartEffect_frame t s
    exact hmax.le
  case txOk => exact (txOkEffect_frame t s).maxEnd_eq.le
  case txFail => exact (txFailEffect_frame t s).maxEnd_eq.le
  case rxFatal => exact (rxFatalEffect_frame t s).maxEnd_eq.le
  case rx | rspSysinfo | rspScreenbuf => cases hi
  all_goals exact Nat.le_refl _

/-- An event that does not raise MAX_END leaves no running capture covered: a cycle that goes on has what it had, and
one that begins has nothing of a frame that is not empty (43_sequencer.md R112, R123). -/
theorem EventStep.uncovered {t : Nat} {s u : State} (h : EventStep t s u) (hs : s.Uncovered)
    (hmax : u.maxEnd ≤ s.maxEnd) : u.Uncovered := by
  cases h with
  | wrongDimensions | answered => exact uncovered_of_terminal rfl
  | ends _ _ he => exact uncovered_of_terminal he.terminal
  | beginCapture w h _ hw hh => exact fun _ _ => State.expected_pos (by simpa using hw) (by simpa using hh)
  | beginQuery => exact uncovered_of_query rfl
  | sent hreq => exact fun _ => hs (running_iff.2 (.inl hreq))
  | goesOn hv =>
    cases hv with
    | nothing | counted => exact hs
    | stored => exact fun hrun hm => Nat.lt_of_le_of_lt hmax (hs hrun hm)

/-- Step 2 of a read leaves no running capture covered, whatever step 1 stored (43_sequencer.md R119, R123). -/
theorem uncovered_captureEnd (n : Int) (t : Nat) (s : State) : (captureEnd n t s).Uncovered := by
  rcases captureEnd_cases n t s with ⟨-, he⟩ | ⟨-, -, -, he⟩ | ⟨-, -, -, he⟩ | ⟨hc, -, he⟩ <;> rw [he]
  · exact uncovered_of_terminal rfl
  · exact uncovered_of_terminal rfl
  · exact uncovered_of_terminal rfl
  · exact fun _ _ => hc

theorem State.Uncovered.rxEffect {s : State} (h : s.Uncovered) (n : Int) (B : List Byte) (t : Nat) :
    (rxEffect n B t s).Uncovered := by
  rcases rxEffect_cases n B t s with ⟨-, he⟩ | ⟨-, -, he⟩ | ⟨-, hm, he⟩ <;> rw [he]
  · exact h
  · exact uncovered_captureEnd n t _
  · rcases queryRead_cases n B t s with ⟨_, _, -, -, he⟩ | ⟨_, -, -, ⟨-, he⟩ | ⟨-, he⟩⟩ <;> rw [he] <;>
      exact uncovered_of_query hm

theorem State.Uncovered.effectOf {s : State} (h : s.Uncovered) (i : Instr) (t : Nat) :
    (effectOf i t s).Uncovered := by
  cases hi : readEvent i with
  | false => exact (EventStep.effectOf i t s).uncovered h (maxEnd_effectOf_le hi t s)
  | true =>
    cases i <;> cases hi <;> exact h.rxEffect _ _ t

/-! ### The statistics of a finished capture -/

/-- What RESULT promises of MAX_END when a capture ends without a device error (43_sequencer.md R124). -/
def StatisticsFit (u : State) : Prop :=
  (u.result = .complete ∧ u.maxEnd = u.expected) ∨
    (u.result = .partialFrame ∧ 0 < u.maxEnd ∧ u.maxEnd < u.expected) ∨ (u.result = .noData ∧ u.maxEnd = 0)

theorem captureEnd_statistics {n : Int} {t : Nat} {s : State} (hle : s.maxEnd ≤ s.expected) :
    captureEnd n t s = s ∨ ((captureEnd n t s).elapsed = t - s.tStart ∧ StatisticsFit (captureEnd n t s)) := by
  rcases captureEnd_cases n t s with ⟨hc, he⟩ | ⟨hc, -, hpos, he⟩ | ⟨-, -, hzero, he⟩ | ⟨-, -, he⟩ <;> rw [he]
  · exact .inr ⟨rfl, .inl ⟨rfl, Nat.le_antisymm hle hc⟩⟩
  · exact .inr ⟨rfl, .inr (.inl ⟨rfl, hpos, hc⟩)⟩
  · exact .inr ⟨rfl, .inr (.inr ⟨rfl, hzero⟩)⟩
  · exact .inl rfl

/-- A read of a capture goes on collecting, or ends it with the statistics that its RESULT promises
(43_sequencer.md R124, R126). -/
theorem rxEffect_statistics {s : State} (hinv : s.BufferInv) (hs : s.state = .collecting) (hm : s.mode = .capture)
    (n : Int) (B : List Byte) (t : Nat) :
    (rxEffect n B t s).state = .collecting ∨
      ((rxEffect n B t s).elapsed = t - s.tStart ∧ StatisticsFit (rxEffect n B t s)) := by
  have hv := usePacket_received (t := t) n B hs hm
  rw [rxEffect_of_capture hs hm, ← hv.frame.tStart_eq]
  refine (captureEnd_statistics (hinv.received hv).maxEndLe).imp_left fun he => ?_
  rw [he, hv.state_eq, hs]

end Sys2Proof.Machine

namespace Sys2Proof.Proofs

open Sys2Proof.Machine

/-- Settles O26: the packet is used, and what then ends the cycle reads the registers it left. -/
theorem rxInCaptureModeUsesThePacketThenDecides : Obligations.RxInCaptureModeUsesThePacketThenDecides := by
  intro n B t s hs hm hB hn ht E q accepted
  have hi : WellFormed s.cfg (.rx n B t) := wellFormed_rx.2 ⟨hB, hn⟩
  have hv := usePacket_packetUsed (s := s.stamped t) (t := t) hi
  have hu := captureEnd_decided n t (usePacket n B t (s.stamped t))
  rw [exec_rx_of_wellFormed hi ht, rxEffect_of_capture (s := s.stamped t) hs hm]
  generalize captureEnd n t (usePacket n B t (s.stamped t)) = u at hu ⊢
  generalize usePacket n B t (s.stamped t) = v at hv hu
  obtain ⟨_, _, _, _, rfl⟩ := hv.exists_eq
  obtain ⟨_, _, _, _, _, rfl⟩ := hu.frame.exists_eq
  exact ⟨_, rfl, hv.pktCount, hv.dropped, hv.stored, hu.covered, hu.late, hu.ended,
    fun hc hin => (hu.goesOn hc hin).imp_left fun hsame => hsame.trans hs, rfl⟩

/-- Settles O27: an answer that decodes is taken before the deadline is looked at. -/
theorem rxInQueryModeTakesTheFirstAnswer : Obligations.RxInQueryModeTakesTheFirstAnswer := by
  intro n B t s hs hm hB hn ht q k
  have hnone (h : q = false ∨ n < 12) : q = true → decodeSize n B = none := fun hq =>
    decodeSize_of_short (h.resolve_left fun hq' => nomatch hq.symm.trans hq') B
  rw [exec_rx_of_wellFormed (wellFormed_rx.2 ⟨hB, hn⟩) ht, rxEffect_of_query (s := s.stamped t) hs hm]
  refine ⟨fun hq hlong => ?_, fun h hlate => ?_, fun h hin => ?_⟩
  · have hsize : decodeSize n B = some (BitVec.ofNat 16 (natLe16 B 8), BitVec.ofNat 16 (natLe16 B 10)) := by
      rw [decodeSize_eq, if_neg (Int.not_lt.2 hlong)]
    have hk : k = s.pktCount + 1 := if_pos hq
    rw [queryRead_of_answer (s := s.stamped t) hq hsize, hk]
    rfl
  · exact congrArg _ (queryRead_of_late (s := s.stamped t) (hnone h) hlate)
  · exact congrArg _ (queryRead_of_inTime (s := s.stamped t) (hnone h) hin)

/-- Settles O28: an empty read qualifies for nothing, so only coverage and the deadline are left to decide. -/
theorem emptyReadIsNoDataYet : Obligations.EmptyReadIsNoDataYet := by
  refine fun n t s hn => ⟨exec_rx_nil_eq_zero hn, fun hs hc ht => ⟨fun hin => ?_, fun hlate => ?_⟩,
    fun hs hm hc ht => ?_⟩ <;> rw [exec_rx_of_wellFormed (wellFormed_rx_nil hn _ t) ht]
  · rw [rxEffect_nil_of_inTime (s := s.stamped t) hn hs hc hin]
    rfl
  · rw [rxEffect_nil_of_late (s := s.stamped t) hn hs hc hlate]
    rfl
  · rw [rxEffect_nil_of_capture (s := s.stamped t) hn hs hm, captureEnd_of_covered (s := s.stamped t) hc]
    rfl

/-- Settles O43: of what a step can be, only a reset and ACCUM on its own change a register in a sticky STATE. -/
theorem stickyStatesAreLeftByResetOnly : Obligations.StickyStatesAreLeftByResetOnly := by
  intro s u hsticky h
  cases step_cases h with
  | reset hp => exact .inl ⟨_, _, _, hp⟩
  | idle | result => exact .inr (by simp)
  | accum _ hp hd => exact .inr (by simp [hp, hd])
  | event rest _ he =>
    obtain rfl := he.eq_of_sticky hsticky
    exact .inr (by simp)

/-- Settles O49: a read decides after its own chunk, and no other event raises MAX_END. -/
theorem coverageEndsACaptureInItsOwnStep : Obligations.CoverageEndsACaptureInItsOwnStep := by
  refine ⟨fun i s u hi hs h => ?_, fun s n t hu hs hm => ?_⟩
  · rcases exec_next_cases h with ⟨o, rfl⟩ | ⟨a, d, o, ha, -⟩ | ⟨t, -, -, rfl⟩
    · exact hs
    · exact absurd ha (hi a d)
    · exact State.Uncovered.effectOf (s := s.stamped t) hs i t
  · have hc : ¬ s.expected ≤ s.maxEnd := Nat.not_le.2 (hu (running_iff.2 (.inr hs)) hm)
    simp [idleBreak, coverageReached, hc]

/-- Settles O50: the packet keeps MAX_END at most EXPECTED, and the end of the cycle reads it. -/
theorem aFinishedCaptureHasItsStatistics : Obligations.AFinishedCaptureHasItsStatistics := by
  intro n B t s u hinv hs hm h hend
  obtain ⟨t, ⟨⟩, -, rfl⟩ := exec_readReport rfl h
  have hstamped : (s.stamped t).BufferInv := { hinv with }
  exact (rxEffect_statistics hstamped hs hm n B t).resolve_left hend

/-- Settles O51, by the effects of TX_OK and of a read past the deadline. -/
theorem theDeadlineEndsEveryCycle : Obligations.TheDeadlineEndsEveryCycle := by
  refine fun t s ht hlate => ⟨fun hs => ?_, fun n B hs hi => ?_⟩
  · have he := txOkEffect_of_late (s := s.stamped t) hs hlate
    exact ⟨_, (exec_txOk_of_timeOk ht).trans (congrArg _ he), rfl, rfl⟩
  · obtain ⟨st, r, v, hst, he⟩ := rxEffect_ends_of_late (s := s.stamped t) hs hlate n B
    exact ⟨_, (exec_rx_of_wellFormed hi ht).trans (congrArg _ he), hst, rfl⟩

/-- Settles O21: the dimensions decide, and a cycle that begins keeps or replaces the buffer. -/
theorem capStartStartsACycleOrEndsTheSession : Obligations.CapStartStartsACycleOrEndsTheSession := by
  intro w h t s ht hs
  have hstart := acceptsStart_iff.2 hs
  have hx : exec (.capStart w h t) s = .next (capStartEffect w h t (s.stamped t)) :=
    exec_of_event_of_timeOk rfl rfl ht
  refine ⟨fun hz => ?_, fun hw hh => ?_⟩
  · rw [hx, capStartEffect_of_zero (s := s.stamped t) hstart hz]
    rfl
  · rw [hx, capStartEffect_of_nonzero (s := s.stamped t) hstart hw hh, setDimensions_eq]
    rfl

/-- Settles O22: the query registers are cleared and the cycle begins. -/
theorem qStartStartsAQuery : Obligations.QStartStartsAQuery := by
  intro t s ht hs
  exact (exec_of_event_of_timeOk rfl rfl ht).trans
    (congrArg _ (qStartEffect_of_acceptsStart (s := s.stamped t) (acceptsStart_iff.2 hs) t))

/-- Settles O23, by the two sides of the deadline. -/
theorem txOkOpensCollectingOrTimesOut : Obligations.TxOkOpensCollectingOrTimesOut := by
  intro t s ht hs
  have hx := exec_txOk_of_timeOk ht
  exact ⟨fun hin => hx.trans (congrArg _ (txOkEffect_of_inTime (s := s.stamped t) hs hin)),
    fun hlate => hx.trans (congrArg _ (txOkEffect_of_late (s := s.stamped t) hs hlate))⟩

/-- Settles O24, by the mode. -/
theorem txFailEndsTheCycle : Obligations.TxFailEndsTheCycle := by
  intro t s ht hs
  have hx : exec (.txFail t) s = .next (txFailEffect t (s.stamped t)) := exec_of_event_of_timeOk rfl rfl ht
  exact ⟨fun hm => hx.trans (congrArg _ (txFailEffect_of_capture (s := s.stamped t) hs hm t)),
    fun hm => hx.trans (congrArg _ (txFailEffect_of_query (s := s.stamped t) hs hm t))⟩

/-- Settles O25: RX_FATAL looks at STATE alone. -/
theorem rxFatalIsDeviceError : Obligations.RxFatalIsDeviceError := by
  intro t s ht hs
  exact (exec_of_event_of_timeOk rfl rfl ht).trans
    (congrArg _ (rxFatalEffect_of_collecting (s := s.stamped t) hs t))

/-- Settles O29: none of these events has a row, and an unassigned op code is an event with no effect. -/
theorem eventsWithoutARowChangeNothing : Obligations.EventsWithoutARowChangeNothing := by
  refine fun t s ht => ⟨fun hs => ?_, fun hs => ?_, fun hs => ?_, fun code a rest hcode ha hp => ?_⟩
  · have hrow := not_acceptsStart hs
    exact ⟨fun w h => exec_of_not_hasRow rfl rfl ht hrow, exec_of_not_hasRow rfl rfl ht hrow⟩
  · exact ⟨exec_of_not_hasRow rfl rfl ht hs, exec_of_not_hasRow rfl rfl ht hs⟩
  · exact ⟨fun n B hi => exec_of_not_hasRow rfl hi ht hs, exec_of_not_hasRow rfl rfl ht hs⟩
  · subst ha
    rw [step_of_port_cons hp, takeInput, takeFrame_of_unassignedOp (decodeOp_unassigned hcode a)]
    exact onEvent_of_timeOk (s := { s.openStep with port := rest }) ht id

end Sys2Proof.Proofs
end

section
/-! Reset and hazards (70_reset_and_hazards.md): what the host may read at rest, and what it may not read while a cycle
runs. -/

namespace Sys2Proof.Machine

/-! ### The host's read of FB -/

theorem readFb_of_inside {s : State} {a : Nat} (hs : s.state.running = false) (ha : a < s.expected) :
    readFb a s = giveResult (.fbByte (s.fbByte a)) s := by
  simp only [readFb, hs, Bool.false_eq_true, if_false, if_pos ha]

theorem readFb_of_running {s : State} (hs : s.state.running = true) (a : Nat) :
    readFb a s = .refused .readWhileRunning := by
  simp only [readFb, hs, if_true]

/-! ### The host's read of a statistic -/

theorem isStatistic_iff {k : Nat} : isStatistic k = true ↔ k = 5 ∨ k = 6 ∨ k = 9 := by
  simp [isStatistic, or_assoc]

theorem registerValue_of_statistic {k : Nat} (hk : isStatistic k = true) (s : State) :
    registerValue s k = some (if k = 5 then s.maxEnd else if k = 6 then s.pktCount else s.elapsed) := by
  rcases isStatistic_iff.1 hk with rfl | rfl | rfl <;> rfl

theorem ne_eight_of_statistic {k : Nat} (hk : isStatistic k = true) : k ≠ 8 := by
  rintro rfl
  exact nomatch hk

/-- With no cycle running every register that is there can be read, but for T_LAST (10_state.md R23). -/
theorem readRegister_of_rest {s : State} {k v : Nat} (hs : s.state.running = false)
    (hv : registerValue s k = some v) (h8 : k ≠ 8) : readRegister k s = giveResult (.register v) s := by
  simp only [readRegister, hv, if_neg h8, hs, Bool.and_false, Bool.false_eq_true, if_false]

theorem readRegister_of_statistic_of_running {s : State} {k : Nat} (hs : s.state.running = true)
    (hk : isStatistic k = true) : readRegister k s = .refused .readWhileRunning := by
  simp only [readRegister, registerValue_of_statistic hk, if_neg (ne_eight_of_statistic hk), hk, hs, Bool.and_true,
    if_true]

end Sys2Proof.Machine

namespace Sys2Proof.Proofs

open Sys2Proof.Machine

/-- Settles O53: STATE alone decides whether FB and the statistics can be read. -/
theorem hostReadsTheFrameOnlyAtRest : Obligations.HostReadsTheFrameOnlyAtRest := by
  refine fun s rest => ⟨fun a hp => ⟨fun hs ha => ?_, fun hs => ?_⟩,
    fun k hk hp => ⟨fun hs => ?_, fun hs => ?_⟩⟩ <;> rw [step_of_port_cons hp]
  · exact readFb_of_inside (s := { s.openStep with port := rest }) hs ha
  · exact readFb_of_running (s := { s.openStep with port := rest }) (running_iff.2 hs) a
  · have hstat := isStatistic_iff.2 hk
    exact readRegister_of_rest (s := { s.openStep with port := rest }) hs (registerValue_of_statistic hstat _)
      (ne_eight_of_statistic hstat)
  · exact readRegister_of_statistic_of_running (s := { s.openStep with port := rest }) (running_iff.2 hs)
      (isStatistic_iff.2 hk)

end Sys2Proof.Proofs
end
